-- ==== Sys2Proof/Word.lean ====
section
/-! DEFINITION. The byte, the slot number and the small fixed sets of names that the commands of the
Ulkari 2416 carry. -/

namespace Sys2Proof

/-- One byte of the register window or of a frame on the shelf link. -/
abbrev Byte := BitVec 8

/-- A backplane slot (R1). Index k stands for slot number k + 1, so the indices 0..29 are the slots 1..30. -/
abbrev Slot := Fin 30

/-- The level of a pin. -/
inductive Level where
  | low
  | high
  deriving DecidableEq, Repr

/-- What the receiver samples from a falling edge of RXD on: the level at the middle of each of ten bit times, a 1 for
high (R64). Bit 0 is the start bit's, bits 8..1 the data bits', bit 9 the stop bit's. -/
abbrev Samples := BitVec 10

/-- The two kinds of evidence of a line fault (R78): LFLTN low, and what the echo comparator samples of RXD at the middle
of a bit the engine drives (R69), the bits of a frame numbered from 0 (log 29). -/
inductive FaultCause where
  | lfltnLow
  | echo (bit : Nat) (rxd : Level)
  deriving DecidableEq, Repr

/-- The two events that break the quiet of the line in FAULT (R80). -/
inductive QuietBreak where
  | lfltnLow
  | rxdLow
  deriving DecidableEq, Repr

end Sys2Proof
end

