-- ==== Sys2Proof/Syntax.lean ====
section
/-! DEFINITION. The commands of the Ulkari 2416: one constructor per row of the table of operations and events, in the
table's order. The table gives no row an operand; the operands below are what the rules say the event brings with it
(a written byte, the samples of a frame, the level of an input pin). -/

namespace Sys2Proof

/-- A command of the block: a bus access, an action, or an event on a pin, on the line or in time. -/
inductive Instr where
  /-- ENABLE_LINK (R82), with the level LFLTN has at the write. -/
  | enableLink (lfltn : Level)
  /-- DISABLE_LINK (R83). -/
  | disableLink
  /-- RESTART_LINK (R84). -/
  | restartLink
  /-- SUBMIT (R109). -/
  | submit
  /-- CANCEL (R129). -/
  | cancel
  /-- POP_COMPLETION (R131). -/
  | popCompletion
  /-- VERDICT, the action (R155). -/
  | verdict
  /-- POP_NOTICE (R167). -/
  | popNotice
  /-- DETACH (R30). -/
  | detach
  /-- RELEASE, the action (R31). -/
  | release
  /-- RENEGOTIATE (R32). -/
  | renegotiate
  /-- A write to ACT of a code outside Table 8-6 (R184). -/
  | unknownAction (code : Byte)
  /-- A write to LCTL with bit 7 set (R188); `low` is bits 6..0 of the byte. -/
  | softReset (low : BitVec 7)
  /-- A write to LCTL with bit 7 clear (R65, R174); `low` is bits 6..0 of the byte. -/
  | rateCodeWrite (low : BitVec 7)
  /-- A write to LSTA with bit 7 set (R175); `low` is bits 6..0 of the byte. -/
  | accessRefusedClear (low : BitVec 7)
  /-- A write to IEN (R170). -/
  | ienWrite (value : Byte)
  /-- A write to WSEL (R177). -/
  | wselWrite (value : Byte)
  /-- A write to WIDX (R177). -/
  | widxWrite (value : Byte)
  /-- A write to WOFF (R177). -/
  | woffWrite (value : Byte)
  /-- A read of WDAT (R178). -/
  | wdatRead
  /-- A write of WDAT (R181). -/
  | wdatWrite (value : Byte)
  /-- A read of the MSCOUNT low byte (R88). -/
  | mscountLowRead
  /-- A write to a register with no row of its own (R173), at one of the 64 addresses. -/
  | registerWrite (address : BitVec 6) (value : Byte)
  /-- RESETN goes low (R86). -/
  | pinReset
  /-- Evidence of a line fault (R78). -/
  | lineFault (cause : FaultCause)
  /-- The quiet-time count has reached 10 (R80). -/
  | lineRestored
  /-- The 1 ms tick (R87), with the levels LFLTN and RXD have at it (R80). -/
  | msTick (lfltn rxd : Level)
  /-- A tick has made MSCOUNT equal to the slot's next poll due (R89). -/
  | pollDue (slot : Slot)
  /-- A tick has made MSCOUNT equal to the slot's due time plus its period in force (R89). -/
  | pollOverdue (slot : Slot)
  /-- The census elapsed count has reached the census interval (R99). -/
  | censusIntervalElapsed
  /-- The slot's hold remaining has reached 0 (R8). -/
  | holdEnd (slot : Slot)
  /-- Remaining deadlines have reached 0 (R124). -/
  | commandExpiry
  /-- Ages of OPEN deferred entries have reached the verdict timeout (R154). -/
  | verdictTimeout
  /-- The scheduler chooses the next call (R91). -/
  | callChoice
  /-- The last stop bit of a call ends (R69). -/
  | callSent
  /-- The reply window ends with no start bit confirmed (R71). -/
  | replyWindowExpiry
  /-- The retry gap ends (R74). -/
  | retryGapEnd
  /-- A reply frame ends (R73): the samples the receiver took of its first byte, and then from each later falling edge
  that begins a byte or turns out to be noise (R64, log 28). -/
  | replyFrameEnd (first : Samples) (rest : List Samples)
  /-- 48 byte times have passed since the first start bit of the reply (R72). -/
  | receptionLimit
  /-- The broadcast RELEASE frame ends (R85). -/
  | broadcastEnd
  /-- A start bit is confirmed within the reply window (R71): RXD is still low at its middle (R64). -/
  | replyStartBit
  /-- LFLTN is low or RXD goes low while the engine is in FAULT (R80). -/
  | quietTimeRestart (cause : QuietBreak)
  /-- RESETN rises (R87). -/
  | pinResetEnd
  deriving DecidableEq, Repr

end Sys2Proof
end

