-- ==== Sys2Proof/Decode.lean ====
section
/-! DEFINITION. The commands that a word spells by the table's bits. No row of the table gives any bits: the
commands are bus accesses and events, and software reaches the actions by the codes of Table 8-6, which
Machine/Actions.lean holds. -/

namespace Sys2Proof

/-- The command that a word of `nbits` bits spells by the bits of the table's rows: none, since no row has bits. -/
def decodeTableWord (_nbits _w : Nat) : Option Instr := none

end Sys2Proof
end

