-- ==== Sys2Proof/Config.lean ====
section
/-! DEFINITION. The fixed sizes and limits of the Ulkari 2416. The spec states every value an operation
writes, so no free value is declared here. -/

namespace Sys2Proof.Config

/-- Places in the command queue (R110). -/
def commandPlaces : Nat := 16

/-- Places in the completion queue, which the reservation count never passes (R114, R130). -/
def completionPlaces : Nat := 16

/-- Places in the notice queue (R164). -/
def noticePlaces : Nat := 32

/-- Entries of the deferred queue, one per handle (R149). -/
def deferredPlaces : Nat := 8

/-- Entries of the received page pool (R52). -/
def poolPages : Nat := 96

/-- The step count at which a negotiation that is not complete ends (R51). -/
def stepLimit : Nat := 20

/-- The quiet-time count at which the line is restored (R80). -/
def quietGoal : Nat := 10

/-- The last window offset, at which the offset stops (R178). -/
def lastOffset : Nat := 1023

/-- The longest deadline SUBMIT accepts, in ms (R109). -/
def deadlineLimit : Nat := 4095

/-- The most data bytes of a command, a result or a completion record (R107, R130). -/
def commandData : Nat := 24

/-- The most data bytes of a message (R137). -/
def messageData : Nat := 28

/-- The most payload bytes of a frame (R67). -/
def framePayload : Nat := 32

/-- The bytes of the longest frame: sync byte, header, length, payload and CRC (R67). -/
def longestFrame : Nat := framePayload + 6

/-- The most bytes a reply frame can hold before the reception limit of 48 byte times, of which the last two
are the idle time that ends the frame (R72). -/
def longestReception : Nat := 46

/-- The bit time of a rate code, in µs; code 3 is invalid (Table 3-2). -/
def bitMicros (rate : BitVec 2) : Option Nat :=
  match rate.toNat with
  | 0 => some 8
  | 1 => some 4
  | 2 => some 2
  | _ => none

/-- The bit times a byte occupies: a start bit, eight data bits and a stop bit (R64). -/
def byteBits : Nat := 10

end Sys2Proof.Config
end

