-- ==== Sys2Proof/Machine/State.lean ====
section
/-! DEFINITION. The state of the Ulkari 2416 as plain data: the pins, the register window, the thirty module
entries, the page exchange unit's stores, the link engine, the call scheduler, the command engine, the message
unit, the notice queue, and the commands that wait. -/

namespace Sys2Proof.Machine

/-- The reasons a step could stop with a fault. The spec names nothing that stops the controller, so there is none. -/
inductive Fault where
  deriving DecidableEq, Repr

/-- The reasons a step could refuse a command. -/
inductive Refusal where
  /-- Raised by an arm of the dispatcher that has no meaning yet; safe, since nothing is claimed of the command. -/
  | notModelled (mnemonic : String)
  deriving DecidableEq, Repr

/-! ## Pages -/

/-- The four page kinds (R36). -/
inductive PageKind where
  | base
  | message
  | unformatted
  | null
  deriving DecidableEq, Repr

/-- The four body bytes of a page, in order (Table 10-3). -/
structure Body where
  b0 : Byte
  b1 : Byte
  b2 : Byte
  b3 : Byte
  deriving DecidableEq, Repr

/-- An entry of the local page list (R37). -/
structure LocalPage where
  kind : PageKind
  body : Body
  required : Bool
  deriving DecidableEq, Repr

/-- A received page as the pool holds it (R50). -/
structure RxPage where
  kind : PageKind
  body : Body
  comply : Bool
  deriving DecidableEq, Repr

/-- A page as a frame carries it: the control fields of Table 2-1 and the body. -/
structure Page where
  kind : PageKind
  more : Bool
  toggle : Bool
  ackValid : Bool
  ackToggle : Bool
  comply : Bool
  fresh : Bool
  body : Body
  deriving DecidableEq, Repr

/-- The page exchange unit's configuration stores (R37, R40, R41). -/
structure PageExchange where
  /-- The eight entries of the local page list. -/
  pages : Vector LocalPage 8
  /-- LPCOUNT. -/
  count : Nat
  /-- The acceptance set: bit c is the flag of MESSAGE code c. -/
  accept : BitVec 256
  /-- The class filter table: the profile mask of each class. -/
  filter : Vector Byte 16
  deriving DecidableEq, Repr

/-- The acknowledgement a context has to deliver (Table 2-3). -/
structure Ack where
  toggle : Bool
  comply : Bool
  deriving DecidableEq, Repr

/-- A profile, P0 to P7. -/
abbrev Profile := Fin 8

/-- The phase of a negotiation; the proposed profile is present in SETTLE (Table 2-3). -/
inductive Phase where
  | exchange
  | settle (proposed : Profile)
  deriving DecidableEq, Repr

/-- A negotiation context (R42, Table 2-3). -/
structure Context where
  phase : Phase
  steps : Nat
  localIndex : Nat
  localDone : Bool
  localToggle : Bool
  moduleToggle : Option Bool
  finalSeen : Bool
  ack : Option Ack
  argsLeft : Nat
  fresh : Bool
  deriving DecidableEq, Repr

/-- The eight negotiation faults (R5, Table 2-5). -/
inductive FaultCode where
  | silent
  | pageOrder
  | stepLimit
  | notComplied
  | noCommonProfile
  | moduleReported
  | profileDisagree
  | classMismatch
  deriving DecidableEq, Repr

/-! ## Commands and completions -/

/-- The nine completion statuses (R130). -/
inductive CompletionStatus where
  | ok
  | refused
  | noReply
  | expired
  | cancelled
  | moduleLost
  | detached
  | renegotiated
  | linkRestart
  deriving DecidableEq, Repr

/-- A command record as accepted (R107); its length is the length of the payload. -/
structure Command where
  target : Slot
  code : Byte
  tag : Byte
  payload : List Byte
  deadline : Nat
  deriving DecidableEq, Repr

/-- A command the engine holds: the record, its place in acceptance order and its remaining deadline, absent for a
command accepted with deadline 0 (R107, R110, R123). -/
structure HeldCommand where
  cmd : Command
  place : Nat
  remaining : Option Nat
  deriving DecidableEq, Repr

/-- A command in the command queue, marked with its status once settled (R125). -/
structure QueuedCommand where
  held : HeldCommand
  settled : Option CompletionStatus
  deriving DecidableEq, Repr

/-- The two end marks (R118). -/
inductive EndMark where
  | cancel
  | expired
  deriving DecidableEq, Repr

/-- The in-flight command; its end marks stand in the order they were set (R113, R118). -/
structure InFlight where
  held : HeldCommand
  marks : List EndMark
  deriving DecidableEq, Repr

/-- An outstanding command with the sequence bit its COMMAND call carried (R119). -/
structure Outstanding where
  held : HeldCommand
  seq : Bool
  deriving DecidableEq, Repr

/-- A completion record (R130); its length is the length of the data. -/
structure Completion where
  tag : Byte
  target : Slot
  code : Byte
  status : CompletionStatus
  detail : Byte
  data : List Byte
  deriving DecidableEq, Repr

/-- The command engine (R107 to R134). -/
structure CommandEngine where
  /-- The command queue, oldest first. -/
  queue : List QueuedCommand
  inFlight : Option InFlight
  /-- The completion queue, head first. -/
  completions : List Completion
  /-- The next place in acceptance order (log 12). -/
  nextPlace : Nat
  deriving DecidableEq, Repr

/-! ## Verdicts and the deferred queue -/

/-- The verdict codes (R143, R155). -/
inductive VerdictCode where
  | accept
  | reject
  deriving DecidableEq, Repr

/-- A verdict for one message (R7). -/
structure Verdict where
  number : BitVec 4
  code : VerdictCode
  reason : Byte
  deriving DecidableEq, Repr

/-- A verdict owed, with the renegotiation request it may carry (R143). -/
structure OwedVerdict where
  verdict : Verdict
  renegotiation : Bool
  deriving DecidableEq, Repr

/-- Who decided a deferred entry (Table 6-2). -/
inductive DecidedBy where
  | software
  | timeout
  deriving DecidableEq, Repr

/-- The decision of a DECIDED deferred entry (R153 to R156). -/
structure Decision where
  code : VerdictCode
  reason : Byte
  decidedBy : DecidedBy
  deriving DecidableEq, Repr

/-- A handle of the deferred queue (R148). -/
abbrev Handle := Fin 8

/-- A deferred entry (Table 6-2). It is OPEN while `decision` is absent. Its generation is its handle's. -/
structure Deferred where
  handle : Handle
  slot : Slot
  cls : Byte
  number : BitVec 4
  data : List Byte
  decision : Option Decision
  age : Nat
  /-- The model's mark: a tick has made the age reach ten times the verdict timeout (R154, log 3). -/
  timeoutReached : Bool
  deriving DecidableEq, Repr

/-- The end-causes of a handle (R150). -/
inductive EndCause where
  | none
  | software
  | timeout
  | gone
  deriving DecidableEq, Repr

/-- What each handle keeps at all times (R150). -/
structure HandleRecord where
  generation : BitVec 4
  endCause : EndCause
  deriving DecidableEq, Repr

/-- The message unit (R135 to R161). -/
structure MessageUnit where
  /-- The deferred queue, oldest first. -/
  queue : List Deferred
  handles : Vector HandleRecord 8
  /-- The verdict timeout, in units of 10 ms. -/
  timeout : Byte
  deriving DecidableEq, Repr

/-! ## The module table -/

/-- The poll standings (R89). -/
inductive Standing where
  | notDue
  | due
  | overdue
  deriving DecidableEq, Repr

/-- The fields that exist in ACTIVE only (R5, R9, R89, R102). -/
structure ActiveData where
  profile : Profile
  nextDue : BitVec 16
  standing : Standing
  period : Byte
  alarmBaseline : Byte
  outstanding : Option Outstanding
  /-- The model's mark: a tick has made MSCOUNT equal to next poll due (R89, log 3). -/
  dueReached : Bool
  /-- The model's mark: a tick has made MSCOUNT equal to next poll due plus the period in force (R89, log 3). -/
  overdueReached : Bool
  deriving DecidableEq, Repr

/-- The state of an entry with the fields that exist in that state only (R1, R5). -/
inductive ModuleState where
  | vacant
  | negotiating (ctx : Context)
  | active (data : ActiveData)
  | failed (code : FaultCode)
  | lost
  deriving DecidableEq, Repr

/-- The pages-dropped count and the local comply record, which are present together (Table 1-3). -/
structure NegotiationRecord where
  dropped : Byte
  comply : BitVec 8
  deriving DecidableEq, Repr

/-- A status record (R6, R102). -/
structure StatusRecord where
  state : Byte
  alarm : Byte
  pending : BitVec 4
  r0 : Byte
  r1 : Byte
  r2 : Byte
  r3 : Byte
  deriving DecidableEq, Repr

/-- A module table entry (Table 1-3). -/
structure Entry where
  state : ModuleState
  censusEnable : Bool
  pollPeriod : Byte
  releaseOwed : Bool
  cls : Option (BitVec 4)
  basePage : Option Body
  pages : List RxPage
  record : Option NegotiationRecord
  missCount : Nat
  status : Option StatusRecord
  fetchWanted : Bool
  lastNumber : Option (BitVec 4)
  lastVerdict : Option Verdict
  verdictOwed : Option OwedVerdict
  hold : Byte
  seqBit : Bool
  deriving DecidableEq, Repr

/-! ## The link engine -/

/-- The eight link engine states (R63). -/
inductive LinkState where
  | off
  | idle
  | sending
  | waiting
  | receiving
  | broadcasting
  | fault
  | stopping
  deriving DecidableEq, Repr

/-- What the engine is doing on the line: the phase of an attempt, which the state shows except in STOPPING, or of a
broadcast (R69, R71, R72, R74, R85). -/
inductive Activity where
  | quiet
  | gap
  | transmitting
  | awaiting
  | receiving
  | frameEnding
  deriving DecidableEq, Repr

/-- The call kinds (R190). -/
inductive CallKind where
  | census
  | page
  | settle
  | poll
  | fetch
  | verdict
  | command
  | release
  deriving DecidableEq, Repr

/-- The scheduling classes (Table 4-1). -/
inductive SchedClass where
  | release
  | verdict
  | negotiation
  | overduePoll
  | command
  | fetch
  | duePoll
  | census
  deriving DecidableEq, Repr

/-- A call handed in by the scheduler (R67, R91): the slot it is for, the class that chose it and its content. -/
structure Call where
  cls : SchedClass
  slot : Slot
  kind : CallKind
  address : BitVec 5
  seq : Bool
  payload : List Byte
  deriving DecidableEq, Repr

/-- The link engine (R63 to R86). -/
structure LinkEngine where
  state : LinkState
  activity : Activity
  /-- The current call: of the exchange in progress, or of the exchange held in FAULT. -/
  current : Option Call
  /-- A broadcast interrupted by a fault is held. -/
  heldBroadcast : Bool
  /-- The attempt count, 0 while there is none. -/
  attempt : Nat
  stopPending : Bool
  restartPending : Bool
  /-- The quiet-time count. -/
  quiet : Nat
  /-- The length the running reply window began with, in units of 10 µs (R70). -/
  window : Option Byte
  /-- The rate code. -/
  rate : BitVec 2
  /-- The reply window parameter. -/
  replyWindow : Byte
  retryLimit : Byte
  deriving DecidableEq, Repr

/-! ## The other blocks -/

/-- The call scheduler (Table 4-2). -/
structure Scheduler where
  mscount : BitVec 16
  /-- The MSCOUNT holding byte (R88). -/
  holding : Byte
  sweep : Slot
  negPtr : Slot
  fetchPtr : Slot
  censusElapsed : Nat
  censusInterval : Byte
  missLimit : Byte
  /-- The owed order (R93). -/
  owed : List Slot
  deriving DecidableEq, Repr

/-- The notice kinds (Table 7-1). -/
inductive NoticeKind where
  | moduleFound
  | negotiated
  | negotiationFailed
  | renegotiating
  | pagesDropped
  | moduleLost
  | slotConflict
  | slotMismatch
  | alarmChanged
  | messageRejected
  | messageGap
  | lateStale
  | verdictTimeout
  | deferredGone
  | lineFault
  | lineRestored
  | linkRestarted
  | noticesLost
  deriving DecidableEq, Repr

/-- A notice (R162). -/
structure Notice where
  kind : NoticeKind
  slot : Byte
  detail : Byte
  timestamp : BitVec 16
  deriving DecidableEq, Repr

/-- The notice queue (R162 to R168). -/
structure NoticeQueue where
  /-- The notices, head first. -/
  notices : List Notice
  /-- The lost count. -/
  lost : Nat
  deriving DecidableEq, Repr

/-- The action results (Table 8-7). -/
inductive ActionResult where
  | none
  | done
  | accepted
  | queueFull
  | badTarget
  | badLength
  | badDeadline
  | removed
  | cancelled
  | atEnd
  | notFound
  | empty
  | taken
  | tooLate
  | alreadyDecided
  | gone
  | noEntry
  | badReason
  | badSlot
  | alreadyVacant
  | wrongState
  | linkOff
  | badLocalPages
  | unknownAction
  deriving DecidableEq, Repr

/-- The window areas (Table 8-2). -/
inductive Area where
  | module
  | localPage
  | accept
  | classFilter
  | pages
  | staging
  | completion
  | notice
  | deferred
  | params
  deriving DecidableEq, Repr

/-- The staging area (R108). -/
structure Staging where
  target : Byte
  code : Byte
  tag : Byte
  length : Byte
  deadline : BitVec 16
  payload : Vector Byte 24
  deriving DecidableEq, Repr

/-- The register window (Table 8-8). -/
structure Window where
  /-- The access-refused flag. -/
  refused : Bool
  /-- IEN: bit 0 NOTICE, bit 1 COMPLETION, bit 2 DECISION, bit 3 LINE. -/
  ien : BitVec 4
  act : Byte
  ares : ActionResult
  args : Vector Byte 4
  /-- WSEL. -/
  area : Area
  widx : Byte
  /-- The window offset. -/
  offset : Nat
  /-- The snapshot buffer: the bytes of the copied record; every byte beyond them is 0 (log 14). -/
  snapshot : List Byte
  staging : Staging
  deriving DecidableEq, Repr

/-- The pins that hold a level between commands, and the byte the last read drove (Table 10-7). -/
structure Pins where
  resetn : Level
  lfltn : Level
  rxd : Level
  readData : Byte
  deriving DecidableEq, Repr

/-- The state of the controller, and the commands still to be taken. -/
structure State where
  pins : Pins
  win : Window
  table : Vector Entry 30
  px : PageExchange
  link : LinkEngine
  sched : Scheduler
  ce : CommandEngine
  mu : MessageUnit
  nq : NoticeQueue
  pending : List Instr
  deriving DecidableEq, Repr

/-! ## Reset values -/

/-- An entry after a pin reset (Table 1-3). -/
def Entry.reset : Entry where
  state := .vacant
  censusEnable := false
  pollPeriod := 20
  releaseOwed := false
  cls := none
  basePage := none
  pages := []
  record := none
  missCount := 0
  status := none
  fetchWanted := false
  lastNumber := none
  lastVerdict := none
  verdictOwed := none
  hold := 0
  seqBit := false

/-- The staging area after either reset (R108). -/
def Staging.reset : Staging where
  target := 0
  code := 0
  tag := 0
  length := 0
  deadline := 0
  payload := Vector.replicate 24 0

/-- The register window after a pin reset (Table 8-8). -/
def Window.reset : Window where
  refused := false
  ien := 0
  act := 0
  ares := .none
  args := Vector.replicate 4 0
  area := .module
  widx := 0
  offset := 0
  snapshot := []
  staging := Staging.reset

/-- The page exchange unit's stores after a pin reset (R37, R40, R41). -/
def PageExchange.reset : PageExchange where
  pages := Vector.replicate 8 ⟨.null, ⟨0, 0, 0, 0⟩, false⟩
  count := 0
  accept := 0
  filter := Vector.replicate 16 0xFF

/-- The link engine after a pin reset (R86). -/
def LinkEngine.reset : LinkEngine where
  state := .off
  activity := .quiet
  current := none
  heldBroadcast := false
  attempt := 0
  stopPending := false
  restartPending := false
  quiet := 0
  window := none
  rate := 1
  replyWindow := 30
  retryLimit := 2

/-- The call scheduler after a pin reset (Table 4-2). -/
def Scheduler.reset : Scheduler where
  mscount := 0
  holding := 0
  sweep := 0
  negPtr := 0
  fetchPtr := 0
  censusElapsed := 0
  censusInterval := 10
  missLimit := 3
  owed := []

/-- The command engine after either reset (R133). -/
def CommandEngine.reset : CommandEngine where
  queue := []
  inFlight := none
  completions := []
  nextPlace := 0

/-- The message unit after a pin reset (R160). -/
def MessageUnit.reset : MessageUnit where
  queue := []
  handles := Vector.replicate 8 ⟨0, .none⟩
  timeout := 25

/-- The notice queue after either reset (R168). -/
def NoticeQueue.reset : NoticeQueue where
  notices := []
  lost := 0

/-- The controller right after a pin reset has ended: RESETN high, every item at its pin-reset value, no command
waiting. The input levels are the model's (log 5, 6). -/
def State.reset : State where
  pins := ⟨.high, .high, .high, 0⟩
  win := Window.reset
  table := Vector.replicate 30 Entry.reset
  px := PageExchange.reset
  link := LinkEngine.reset
  sched := Scheduler.reset
  ce := CommandEngine.reset
  mu := MessageUnit.reset
  nq := NoticeQueue.reset
  pending := []

end Sys2Proof.Machine
end

