-- ==== Sys2Proof/Machine/Operands.lean ====
section
/-! DEFINITION. How the operands of the commands read: slot numbers, profiles and handles as bytes, the codes of
Chapters 8 and 10 for the sets of names, and the bits of a page's control byte. -/

namespace Sys2Proof.Machine

/-- A flag as a byte, 0 or 1. -/
def byteOfBool (b : Bool) : Byte := if b then 1 else 0

/-- A count as a byte. -/
def byteOfNat (n : Nat) : Byte := BitVec.ofNat 8 n

/-- The low byte of a two-byte value, which stands first (00_scope 0.7). -/
def lowByte (w : BitVec 16) : Byte := w.extractLsb' 0 8

/-- The high byte of a two-byte value. -/
def highByte (w : BitVec 16) : Byte := w.extractLsb' 8 8

/-- A list of bytes shown in a field of n bytes: cut or filled with 0 (R192, R193). -/
def padded (n : Nat) (l : List Byte) : List Byte := (l ++ List.replicate n 0).take n

/-! ## Slots -/

/-- The slot number as a byte, 1..30 (R1). -/
def slotByte (i : Slot) : Byte := byteOfNat (i.val + 1)

/-- The slot a byte names, if it is 1..30 (R1). -/
def slotOfByte (b : Byte) : Option Slot :=
  if h : 1 ≤ b.toNat ∧ b.toNat ≤ 30 then some ⟨b.toNat - 1, by omega⟩ else none

/-- The link address of a slot's module is its slot number (R1). -/
def slotAddress (i : Slot) : BitVec 5 := BitVec.ofNat 5 (i.val + 1)

/-- The slot after a slot, with 30 followed by 1 (R23). -/
def nextSlot (i : Slot) : Slot := i + 1

/-- All slots, from 1 to 30. -/
def allSlots : List Slot := List.finRange 30

/-- The slots searched upward from a pointer, starting at its own slot and wrapping from 30 to 1 (R23, R94, R97). -/
def slotsFrom (p : Slot) : List Slot := allSlots.map fun k => p + k

/-! ## Handles and profiles -/

/-- The handle a byte names, if it is 0..7 (R155). -/
def handleOfByte (b : Byte) : Option Handle :=
  if h : b.toNat < 8 then some ⟨b.toNat, h⟩ else none

/-- A handle as a byte. -/
def handleByte (h : Handle) : Byte := byteOfNat h.val

/-- A profile as a byte, 0..7. -/
def profileByte (p : Profile) : Byte := byteOfNat p.val

/-! ## Codes of the windows and frames (Chapters 8 and 10) -/

/-- Page kinds (Table 10-3). -/
def PageKind.code (k : PageKind) : BitVec 2 :=
  match k with
  | .base => 0
  | .message => 1
  | .unformatted => 2
  | .null => 3

/-- The page kind of a two-bit code (Table 10-3). -/
def pageKindOfCode (c : BitVec 2) : PageKind :=
  match c.toNat with
  | 0 => .base
  | 1 => .message
  | 2 => .unformatted
  | _ => .null

/-- The page kind a byte of the LOCALPAGE area names, if it has one (Table 10-5). -/
def pageKindOfByte (b : Byte) : Option PageKind :=
  if b.toNat < 4 then some (pageKindOfCode (b.extractLsb' 0 2)) else none

/-- The link engine's state codes (R175). -/
def LinkState.code (l : LinkState) : BitVec 3 :=
  match l with
  | .off => 0
  | .idle => 1
  | .sending => 2
  | .waiting => 3
  | .receiving => 4
  | .broadcasting => 5
  | .fault => 6
  | .stopping => 7

/-- Action results (Table 8-7). -/
def ActionResult.code (r : ActionResult) : Byte :=
  match r with
  | .none => 0x00
  | .done => 0x01
  | .accepted => 0x02
  | .queueFull => 0x03
  | .badTarget => 0x04
  | .badLength => 0x05
  | .badDeadline => 0x06
  | .removed => 0x07
  | .cancelled => 0x08
  | .atEnd => 0x09
  | .notFound => 0x0A
  | .empty => 0x0B
  | .taken => 0x0C
  | .tooLate => 0x0D
  | .alreadyDecided => 0x0E
  | .gone => 0x0F
  | .noEntry => 0x10
  | .badReason => 0x11
  | .badSlot => 0x12
  | .alreadyVacant => 0x13
  | .wrongState => 0x14
  | .linkOff => 0x15
  | .badLocalPages => 0x16
  | .unknownAction => 0x17

/-- Window area codes (Table 8-2). -/
def Area.code (a : Area) : Byte :=
  match a with
  | .module => 0
  | .localPage => 1
  | .accept => 2
  | .classFilter => 3
  | .pages => 4
  | .staging => 5
  | .completion => 6
  | .notice => 7
  | .deferred => 8
  | .params => 9

/-- The area a written WSEL selects, if the value is 0..9 (R177). -/
def areaOfByte (b : Byte) : Option Area :=
  match b.toNat with
  | 0 => some .module
  | 1 => some .localPage
  | 2 => some .accept
  | 3 => some .classFilter
  | 4 => some .pages
  | 5 => some .staging
  | 6 => some .completion
  | 7 => some .notice
  | 8 => some .deferred
  | 9 => some .params
  | _ => none

/-- Notice kinds (Table 7-1). -/
def NoticeKind.code (k : NoticeKind) : Byte :=
  match k with
  | .moduleFound => 0x01
  | .negotiated => 0x02
  | .negotiationFailed => 0x03
  | .renegotiating => 0x04
  | .pagesDropped => 0x05
  | .moduleLost => 0x06
  | .slotConflict => 0x07
  | .slotMismatch => 0x08
  | .alarmChanged => 0x09
  | .messageRejected => 0x0A
  | .messageGap => 0x0B
  | .lateStale => 0x0C
  | .verdictTimeout => 0x0D
  | .deferredGone => 0x0E
  | .lineFault => 0x0F
  | .lineRestored => 0x10
  | .linkRestarted => 0x11
  | .noticesLost => 0x12

/-- Completion statuses (Table 10-6). -/
def CompletionStatus.code (c : CompletionStatus) : Byte :=
  match c with
  | .ok => 1
  | .refused => 2
  | .noReply => 3
  | .expired => 4
  | .cancelled => 5
  | .moduleLost => 6
  | .detached => 7
  | .renegotiated => 8
  | .linkRestart => 9

/-- Fault codes (R5). -/
def FaultCode.code (f : FaultCode) : Byte :=
  match f with
  | .silent => 1
  | .pageOrder => 2
  | .stepLimit => 3
  | .notComplied => 4
  | .noCommonProfile => 5
  | .moduleReported => 6
  | .profileDisagree => 7
  | .classMismatch => 8

/-- Verdict codes (R155, R191). -/
def VerdictCode.code (v : VerdictCode) : Byte :=
  match v with
  | .accept => 1
  | .reject => 2

/-- The verdict a byte names, if it is 1 or 2 (R155). -/
def verdictOfByte (b : Byte) : Option VerdictCode :=
  match b.toNat with
  | 1 => some .accept
  | 2 => some .reject
  | _ => none

/-- Module states (Table 10-4). -/
def ModuleState.code (m : ModuleState) : Byte :=
  match m with
  | .vacant => 0
  | .negotiating _ => 1
  | .active _ => 2
  | .failed _ => 3
  | .lost => 4

/-- Poll standings (Table 10-4). -/
def Standing.code (t : Standing) : Byte :=
  match t with
  | .notDue => 0
  | .due => 1
  | .overdue => 2

/-- End-causes (Table 10-6). -/
def EndCause.code (c : EndCause) : Byte :=
  match c with
  | .none => 0
  | .software => 1
  | .timeout => 2
  | .gone => 3

/-- Decided-by codes (Table 10-6). -/
def DecidedBy.code (d : DecidedBy) : Byte :=
  match d with
  | .software => 1
  | .timeout => 2

/-- The end-cause a handle takes when its decided entry is freed (R151). -/
def DecidedBy.endCause (d : DecidedBy) : EndCause :=
  match d with
  | .software => .software
  | .timeout => .timeout

/-! ## Page bodies (Table 10-3) -/

/-- The profile mask of a BASE body. -/
def Body.mask (b : Body) : Byte := b.b0

/-- The class of a BASE body. -/
def Body.cls (b : Body) : BitVec 4 := b.b1.extractLsb' 0 4

/-- The fault flag of a BASE body. -/
def Body.fault (b : Body) : Bool := b.b1.getLsbD 7

/-- The code of a MESSAGE body. -/
def Body.code (b : Body) : Byte := b.b0

/-- The argument count of a MESSAGE body. -/
def Body.argCount (b : Body) : Nat := b.b1.toNat

/-- The body bytes in order. -/
def Body.bytes (b : Body) : List Byte := [b.b0, b.b1, b.b2, b.b3]

/-- The body with byte k (0..3) replaced. -/
def Body.setByte (b : Body) (k : Nat) (v : Byte) : Body :=
  match k with
  | 0 => { b with b0 := v }
  | 1 => { b with b1 := v }
  | 2 => { b with b2 := v }
  | _ => { b with b3 := v }

/-- The body as a call carries it: the bytes Table 2-2 and Table 10-3 give as "sent as 0" are 0 (log 10). -/
def sentBody (k : PageKind) (b : Body) : Body :=
  match k with
  | .base => { b with b3 := 0 }
  | .message => { b with b2 := 0, b3 := 0 }
  | .unformatted => b
  | .null => ⟨0, 0, 0, 0⟩

/-- The control byte of a page record (Table 10-3). -/
def Page.control (p : Page) : Byte :=
  BitVec.ofBool p.fresh ++ BitVec.ofBool p.comply ++ BitVec.ofBool p.ackToggle ++ BitVec.ofBool p.ackValid ++
    BitVec.ofBool p.toggle ++ BitVec.ofBool p.more ++ p.kind.code

/-- The five bytes of a page record (R191). -/
def Page.bytes (p : Page) : List Byte := p.control :: p.body.bytes

/-- The page five bytes carry (R191). -/
def pageOfBytes (c b0 b1 b2 b3 : Byte) : Page where
  kind := pageKindOfCode (c.extractLsb' 0 2)
  more := c.getLsbD 2
  toggle := c.getLsbD 3
  ackValid := c.getLsbD 4
  ackToggle := c.getLsbD 5
  comply := c.getLsbD 6
  fresh := c.getLsbD 7
  body := ⟨b0, b1, b2, b3⟩

end Sys2Proof.Machine
end

