-- ==== Sys2Proof/Machine/Frames.lean ====
section
/-! DEFINITION. Frames on the shelf link: the CRC, the bits of a byte sent and received, the bytes of a call, and the
judging of a received frame (R64, R67, R68, R73, R190, R191). -/

namespace Sys2Proof.Machine

/-! ## CRC -/

/-- One shift of the CRC register (R190). -/
def crcShift (r : BitVec 16) : BitVec 16 :=
  if r.msb then (r <<< 1) ^^^ 0x1021#16 else r <<< 1

/-- The register after one byte: the byte joins the high eight bits, then eight shifts (R190). -/
def crcByte (r : BitVec 16) (b : Byte) : BitVec 16 :=
  crcShift (crcShift (crcShift (crcShift (crcShift (crcShift (crcShift (crcShift (r ^^^ (b ++ 0#8)))))))))

/-- The CRC over a run of bytes, preset to 0xFFFF and sent without inversion (R67, R190). -/
def crc (bytes : List Byte) : BitVec 16 := bytes.foldl crcByte 0xFFFF#16

/-! ## Bits on the line (R64) -/

/-- A byte as the line carries it: a low start bit, the data bits with the least significant first, a high stop bit. -/
def serial (b : Byte) : Samples := 1#1 ++ b ++ 0#1

/-- The levels of a run of bytes, bit time by bit time, with no idle time between bytes (R64, R69); a 1 is high. -/
def lineBits (bytes : List Byte) : List Bool :=
  bytes.flatMap fun b => (List.range Config.byteBits).map fun k => (serial b).getLsbD k

/-- The level of a bit. -/
def levelOf (b : Bool) : Level := if b then .high else .low

/-- The start bit is confirmed: the line is still low at its middle. A low that has ended by then is noise. -/
def startConfirmed (c : Samples) : Bool := !c.getLsbD 0

/-- The data bits sampled. -/
def sampledByte (c : Samples) : Byte := c.extractLsb' 1 8

/-- A break: the line is held low for more than a byte time, so that every sample of the byte is low (log 28). -/
def isBreak (c : Samples) : Bool := c == 0

/-- A framing error: the stop bit is sampled low, or the line is in a break. -/
def hasFramingError (c : Samples) : Bool := !c.getLsbD 9 || isBreak c

/-- The bytes received: one for each confirmed start bit. -/
def receivedBytes (l : List Samples) : List Byte := (l.filter startConfirmed).map sampledByte

/-- Some byte received had a framing error. -/
def anyFramingError (l : List Samples) : Bool := (l.filter startConfirmed).any hasFramingError

/-! ## Calls -/

/-- Call kind codes (R190). -/
def CallKind.code (k : CallKind) : BitVec 4 :=
  match k with
  | .census => 1
  | .page => 2
  | .settle => 3
  | .poll => 4
  | .fetch => 5
  | .verdict => 6
  | .command => 7
  | .release => 8

/-- The bytes of a frame from the address byte to the last payload byte (Table 10-1). -/
def frameBody (address : BitVec 5) (seq direction : Bool) (kind : BitVec 4) (payload : List Byte) : List Byte :=
  (0#1 ++ BitVec.ofBool seq ++ BitVec.ofBool direction ++ address) :: (0#4 ++ kind) :: byteOfNat payload.length
    :: payload

/-- A whole frame (Table 10-1). -/
def frame (address : BitVec 5) (seq direction : Bool) (kind : BitVec 4) (payload : List Byte) : List Byte :=
  let body := frameBody address seq direction kind payload
  0xC3#8 :: body ++ [lowByte (crc body), highByte (crc body)]

/-- The frame of a call (R67). -/
def Call.frame (c : Call) : List Byte :=
  Machine.frame c.address c.seq false c.kind.code c.payload

/-- The broadcast RELEASE, to address 31 with sequence bit 0 and no payload (R85). -/
def broadcastFrame : List Byte := frame 31 false false CallKind.release.code []

/-! ## Replies -/

/-- A valid reply, with the payload fields of Table 3-3. -/
inductive Reply where
  | hello (slot : Byte) (cls : BitVec 4)
  | page (page : Page)
  | settleAck (profile : Byte)
  | status (record : StatusRecord)
  | message (cls : Byte) (number : BitVec 4) (data : List Byte)
  | empty
  | ack
  | result (data : List Byte)
  | working
  | refused (reason : Byte)
  deriving DecidableEq, Repr

/-- The outcome of an attempt or an exchange, as delivered (R76); a REPLY carries its sequence bit. ABANDONED is never
delivered: a line fault holds the exchange instead (R79). -/
inductive ExchangeOutcome where
  | reply (r : Reply) (seq : Bool)
  | silence
  | garble
  deriving DecidableEq, Repr

/-- The reply that a reply kind and payload make for a call, if Table 3-3 permits it: conditions 7 and 8 of R73.
Reply kind codes: HELLO 1, PAGE 2, ACK 3, STATUS 4, MESSAGE 5, EMPTY 6, RESULT 7, WORKING 8, REFUSED 9 (R190). -/
def permittedReply (call : CallKind) (kind : BitVec 4) (payload : List Byte) : Option Reply :=
  match call, kind.toNat, payload with
  | .census, 1, [slot, cls] =>
    if cls.toNat ≤ 15 then some (.hello slot (cls.extractLsb' 0 4)) else none
  | .page, 2, [c, b0, b1, b2, b3] => some (.page (pageOfBytes c b0 b1 b2 b3))
  | .settle, 3, [profile] => some (.settleAck profile)
  | .poll, 4, [st, al, pc, r0, r1, r2, r3] =>
    if pc.toNat ≤ 15 then some (.status ⟨st, al, pc.extractLsb' 0 4, r0, r1, r2, r3⟩) else none
  | .fetch, 5, cls :: number :: n :: data =>
    if number.toNat ≤ 15 ∧ n.toNat = data.length ∧ data.length ≤ Config.messageData then
      some (.message cls (number.extractLsb' 0 4) data)
    else none
  | .fetch, 6, [] => some .empty
  | .verdict, 3, [] => some .ack
  | .release, 3, [] => some .ack
  | .command, 7, data => if data.length ≤ Config.commandData then some (.result data) else none
  | .command, 8, [] => some .working
  | .command, 9, [reason] => if 1 ≤ reason.toNat then some (.refused reason) else none
  | _, _, _ => none

/-- The classification of a received frame at its end (R73). Bit 7 of byte 1 and bits 7..4 of byte 2 are not
examined, but the CRC covers them (R190). -/
def classify (call : Call) (bytes : List Byte) (framingError : Bool) : ExchangeOutcome :=
  match bytes with
  | sync :: h1 :: h2 :: len :: rest =>
    let payload := rest.take len.toNat
    let sum := crc (h1 :: h2 :: len :: payload)
    if framingError = false ∧ sync = 0xC3#8 ∧ len.toNat ≤ Config.framePayload ∧ rest.length = len.toNat + 2 ∧
        rest.drop len.toNat = [lowByte sum, highByte sum] ∧ h1.getLsbD 5 = true ∧
        h1.extractLsb' 0 5 = call.address then
      match permittedReply call.kind (h2.extractLsb' 0 4) payload with
      | some r => .reply r (h1.getLsbD 6)
      | none => .garble
    else .garble
  | _ => .garble

end Sys2Proof.Machine
end

