-- ==== Sys2Proof/Machine/Ops.lean ====
section
/-! DEFINITION. The named operations the meanings share: access to entries, notices, completion records, settled
commands, owed verdicts, the deferred queue, the entry into each module state, and the moves of the link engine. -/

namespace Sys2Proof.Machine

/-! ## Entries -/

/-- The entry of a slot (R1). -/
def State.entry (s : State) (i : Slot) : Entry := s.table[i.val]

/-- The state with a slot's entry replaced. -/
def State.setEntry (s : State) (i : Slot) (e : Entry) : State := { s with table := s.table.set i.val e }

/-- The state with a slot's entry changed by a function. -/
def State.updEntry (s : State) (i : Slot) (f : Entry → Entry) : State := s.setEntry i (f (s.entry i))

/-- The entry is VACANT. -/
def Entry.isVacant (e : Entry) : Bool :=
  match e.state with
  | .vacant => true
  | .negotiating _ | .active _ | .failed _ | .lost => false

/-- The negotiation context, in NEGOTIATING (R5). -/
def Entry.context? (e : Entry) : Option Context :=
  match e.state with
  | .negotiating ctx => some ctx
  | .vacant | .active _ | .failed _ | .lost => none

/-- The fields of an ACTIVE entry (R5). -/
def Entry.active? (e : Entry) : Option ActiveData :=
  match e.state with
  | .active d => some d
  | .vacant | .negotiating _ | .failed _ | .lost => none

/-- The entry is ACTIVE. -/
def Entry.isActive (e : Entry) : Bool := e.active?.isSome

/-- The entry is NEGOTIATING. -/
def Entry.isNegotiating (e : Entry) : Bool := e.context?.isSome

/-- The outstanding command of an entry, which only an ACTIVE entry holds (R9). -/
def Entry.outstanding? (e : Entry) : Option Outstanding := e.active?.bind fun d => d.outstanding

/-- Change the fields of an ACTIVE entry; an entry in another state has none to change. -/
def Entry.updActive (f : ActiveData → ActiveData) (e : Entry) : Entry :=
  match e.state with
  | .active d => { e with state := .active (f d) }
  | .vacant | .negotiating _ | .failed _ | .lost => e

/-- Set or empty the outstanding command of an ACTIVE entry. -/
def Entry.setOutstanding (o : Option Outstanding) (e : Entry) : Entry :=
  e.updActive fun d => { d with outstanding := o }

/-! ## Notices -/

/-- Post a notice (R163): appended with MSCOUNT as its timestamp, or discarded and counted when the queue is full
(R164). -/
def post (kind : NoticeKind) (slot detail : Byte) (s : State) : State :=
  if s.nq.notices.length < Config.noticePlaces then
    { s with nq := { s.nq with notices := s.nq.notices ++ [⟨kind, slot, detail, s.sched.mscount⟩] } }
  else { s with nq := { s.nq with lost := min (s.nq.lost + 1) 255 } }

/-! ## The register window's results -/

/-- Set ARES (R183). -/
def setAres (r : ActionResult) (s : State) : State := { s with win := { s.win with ares := r } }

/-- Set the access-refused flag (R175). -/
def refuseAccess (s : State) : State := { s with win := { s.win with refused := true } }

/-- Drive the data lines with a byte read (R172). -/
def driveData (b : Byte) (s : State) : State := { s with pins := { s.pins with readData := b } }

/-! ## Completion records and the reservation -/

/-- The number of entries holding an outstanding command. -/
def State.outstandingCount (s : State) : Nat := s.table.toList.countP fun e => e.outstanding?.isSome

/-- The reservation count (R114). -/
def State.reservation (s : State) : Nat :=
  s.ce.completions.length + (if s.ce.inFlight.isSome then 1 else 0) + s.outstandingCount

/-- The completion record of a held command (R117, R120, R126). -/
def HeldCommand.completion (h : HeldCommand) (status : CompletionStatus) (detail : Byte) (data : List Byte) :
    Completion where
  tag := h.cmd.tag
  target := h.cmd.target
  code := h.cmd.code
  status := status
  detail := detail
  data := data

/-- Append a completion record at the tail (R130). -/
def appendCompletion (c : Completion) (s : State) : State :=
  { s with ce := { s.ce with completions := s.ce.completions ++ [c] } }

/-- Take settled commands out of the queue, oldest first, as many as there is room for: what stays, and the records
written (R126, R127). -/
def takeSettled (room : Nat) (queue : List QueuedCommand) : List QueuedCommand × List Completion :=
  match queue with
  | [] => ([], [])
  | q :: rest =>
    match q.settled, room with
    | some status, k + 1 =>
      let r := takeSettled k rest
      (r.1, q.held.completion status 0 [] :: r.2)
    | some _, 0 => (q :: (takeSettled 0 rest).1, (takeSettled 0 rest).2)
    | none, _ => (q :: (takeSettled room rest).1, (takeSettled room rest).2)

/-- Give settled commands their records in queue order while the reservation count is below 16 (R127). -/
def flushSettled (s : State) : State :=
  let r := takeSettled (Config.completionPlaces - s.reservation) s.ce.queue
  { s with ce := { s.ce with queue := r.1, completions := s.ce.completions ++ r.2 } }

/-- Mark a queued command settled, if it is unsettled and picked (R125). -/
def QueuedCommand.settleIf (pick : QueuedCommand → Bool) (status : CompletionStatus) (q : QueuedCommand) :
    QueuedCommand :=
  if q.settled = none ∧ pick q = true then { q with settled := some status } else q

/-- Settle the picked unsettled commands in queue order and give what room there is (R125, R127). -/
def settle (pick : QueuedCommand → Bool) (status : CompletionStatus) (s : State) : State :=
  flushSettled { s with ce := { s.ce with queue := s.ce.queue.map (QueuedCommand.settleIf pick status) } }

/-- Settle every command queued to a slot (R16, R18). -/
def settleSlot (i : Slot) (status : CompletionStatus) (s : State) : State :=
  settle (fun q => q.held.cmd.target == i) status s

/-- End a slot's outstanding command, if it holds one: the field is emptied and the record appended (R120). -/
def completeOutstanding (i : Slot) (status : CompletionStatus) (data : List Byte) (s : State) : State :=
  match (s.entry i).outstanding? with
  | none => s
  | some o =>
    appendCompletion (o.held.completion status 0 data) (s.updEntry i (Entry.setOutstanding none))

/-! ## Owed verdicts and the deferred queue -/

/-- Make a verdict owed to a slot (R143): verdict owed and last verdict are set and the slot joins the owed order. -/
def oweVerdict (i : Slot) (v : Verdict) (renegotiation : Bool) (s : State) : State :=
  let s := s.updEntry i fun e => { e with verdictOwed := some ⟨v, renegotiation⟩, lastVerdict := some v }
  { s with sched :=
    { s.sched with owed := if s.sched.owed.contains i then s.sched.owed else s.sched.owed ++ [i] } }

/-- Clear a slot's verdict owed; the slot leaves the owed order (R93). -/
def clearOwed (i : Slot) (s : State) : State :=
  let s := s.updEntry i fun e => { e with verdictOwed := none }
  { s with sched := { s.sched with owed := s.sched.owed.filter fun j => j != i } }

/-- The deferred entry of a slot, if it has one (R149). -/
def State.deferredOf (s : State) (i : Slot) : Option Deferred := s.mu.queue.find? fun d => d.slot == i

/-- The deferred entry a handle holds, if any. -/
def State.deferredAt (s : State) (h : Handle) : Option Deferred := s.mu.queue.find? fun d => d.handle == h

/-- Remove a handle's entry from the deferred queue and record its end-cause; the generation is kept (R150). -/
def dropDeferred (h : Handle) (cause : EndCause) (s : State) : State :=
  { s with mu :=
    { s.mu with
      queue := s.mu.queue.filter fun d => d.handle != h
      handles := s.mu.handles.set h.val { s.mu.handles[h.val] with endCause := cause } } }

/-- Orphan a slot's deferred entry, if it has one, and post DEFERRED_GONE (R152). -/
def orphan (i : Slot) (s : State) : State :=
  match s.deferredOf i with
  | none => s
  | some d => post .deferredGone (slotByte i) (handleByte d.handle) (dropDeferred d.handle .gone s)

/-- Free a slot's DECIDED deferred entry, if it has one (R151). -/
def freeDecided (i : Slot) (s : State) : State :=
  match s.deferredOf i with
  | none => s
  | some d =>
    match d.decision with
    | none => s
    | some dec => dropDeferred d.handle dec.decidedBy.endCause s

/-- Decide the OPEN entry of a handle and make its verdict owed (R153, R154, R156). -/
def decideEntry (d : Deferred) (dec : Decision) (s : State) : State :=
  oweVerdict d.slot ⟨d.number, dec.code, dec.reason⟩ false
    { s with mu :=
      { s.mu with queue := s.mu.queue.map fun x => if x.handle == d.handle then { x with decision := some dec } else x } }

/-! ## Entering a state -/

/-- A fresh negotiation context (R42, Table 2-3). -/
def Context.initial : Context where
  phase := .exchange
  steps := 0
  localIndex := 0
  localDone := false
  localToggle := false
  moduleToggle := none
  finalSeen := false
  ack := none
  argsLeft := 0
  fresh := true

/-- Entry into NEGOTIATING from VACANT (R12). -/
def enterNegotiating (i : Slot) (cls : BitVec 4) (s : State) : State :=
  post .moduleFound (slotByte i) (cls.setWidth 8) <|
    s.updEntry i fun e =>
      { e with
        state := .negotiating Context.initial
        cls := some cls
        seqBit := false
        record := some ⟨0, 0⟩
        fetchWanted := false
        hold := 0 }

/-- Entry into NEGOTIATING from ACTIVE (R13), with the cause as the notice's detail. -/
def renegotiate (i : Slot) (cause : Byte) (s : State) : State :=
  post .renegotiating (slotByte i) cause <|
    (completeOutstanding i .renegotiated [] s).updEntry i fun e =>
      { e with
        state := .negotiating Context.initial
        basePage := none
        pages := []
        hold := 0
        fetchWanted := false
        seqBit := false
        record := some ⟨0, 0⟩
        verdictOwed := e.verdictOwed.map fun v => { v with renegotiation := false } }

/-- Post PAGES_DROPPED at the end of a negotiation whose pages-dropped count is above 0 (R53). -/
def postPagesDropped (i : Slot) (s : State) : State :=
  match (s.entry i).record with
  | none => s
  | some r => if r.dropped = 0 then s else post .pagesDropped (slotByte i) r.dropped s

/-- The fields of an entry that has just entered ACTIVE (R14, R100). -/
def ActiveData.initial (profile : Profile) (now : BitVec 16) (period : Byte) : ActiveData where
  profile := profile
  nextDue := now
  standing := .due
  period := period
  alarmBaseline := 0
  outstanding := none
  dueReached := false
  overdueReached := false

/-- Entry into ACTIVE (R14). -/
def enterActive (i : Slot) (profile : Profile) (s : State) : State :=
  post .negotiated (slotByte i) (profileByte profile) <|
    (postPagesDropped i s).updEntry i fun e =>
      { e with
        state := .active (ActiveData.initial profile s.sched.mscount e.pollPeriod)
        missCount := 0 }

/-- Entry into FAILED (R15, R58). -/
def enterFailed (i : Slot) (code : FaultCode) (s : State) : State :=
  post .negotiationFailed (slotByte i) code.code <|
    orphan i <|
      clearOwed i <|
        (postPagesDropped i s).updEntry i fun e => { e with state := .failed code, fetchWanted := false }

/-- Entry into LOST (R16). -/
def enterLost (i : Slot) (s : State) : State :=
  orphan i <|
    post .moduleLost (slotByte i) 0 <|
      clearOwed i <|
        (settleSlot i .moduleLost (completeOutstanding i .moduleLost [] s)).updEntry i fun e =>
          { e with state := .lost, hold := 0, fetchWanted := false }

/-- The end of an ACTIVE entry's commands when it enters VACANT (R18); an entry in another state has none to end. -/
def endCommands (i : Slot) (status : CompletionStatus) (s : State) : State :=
  if (s.entry i).isActive then settleSlot i status (completeOutstanding i status [] s) else s

/-- Entry into VACANT (R17, R18); `status` is the cause for the commands of an entry that was ACTIVE. -/
def enterVacant (i : Slot) (status : CompletionStatus) (s : State) : State :=
  orphan i <|
    clearOwed i <|
      (endCommands i status s).updEntry i fun e =>
        { e with
          state := .vacant
          cls := none
          basePage := none
          pages := []
          record := none
          missCount := 0
          status := none
          fetchWanted := false
          lastNumber := none
          lastVerdict := none
          hold := 0
          seqBit := false }

/-! ## The received page pool -/

/-- The pages held by all entries (R52). -/
def State.pagesHeld (s : State) : Nat := (s.table.toList.map fun e => e.pages.length).sum

/-- POOLFREE: the free entries of the pool (R52). -/
def State.poolFree (s : State) : Nat := Config.poolPages - s.pagesHeld

/-! ## The link engine -/

/-- Change the link engine. -/
def State.setLink (s : State) (l : LinkEngine) : State := { s with link := l }

/-- The engine enters OFF: stop pending is cleared and TXEN is low (R83). -/
def enterOff (s : State) : State :=
  s.setLink { s.link with state := .off, activity := .quiet, stopPending := false, window := none }

/-- The engine enters IDLE. -/
def enterIdle (s : State) : State :=
  s.setLink { s.link with state := .idle, activity := .quiet, window := none }

/-- The state that shows an exchange's phase, or STOPPING while a stop is pending (R79, R83). -/
def exchangeState (l : LinkEngine) (shown : LinkState) : LinkState := if l.stopPending then .stopping else shown

/-- The engine transmits the current call from attempt 1 (R74, R79). -/
def startExchange (s : State) : State :=
  s.setLink { s.link with
    state := exchangeState s.link .sending, activity := .transmitting, attempt := 1, window := none }

/-- The scheduler hands in a call, which becomes the current call (R63, R90). -/
def handIn (c : Call) (s : State) : State := startExchange (s.setLink { s.link with current := some c })

/-- The engine enters BROADCASTING and transmits the broadcast RELEASE (R85). -/
def enterBroadcasting (s : State) : State :=
  s.setLink { s.link with
    state := .broadcasting, activity := .transmitting, heldBroadcast := false, window := none }

/-- The link restart's action on one entry (R33 step 1). -/
def restartEntry (s : State) (i : Slot) : State :=
  if (s.entry i).isVacant then s else enterVacant i .linkRestart s

/-- The link restart's action on the module table (R33). -/
def restartTable (s : State) : State :=
  let s := allSlots.foldl restartEntry s
  post .linkRestarted 0 0 { s with table := s.table.map fun e => { e with releaseOwed := false } }

/-- The engine acts on a pending restart: it clears restart pending, the table is acted on, and the broadcast begins
(R84, R85). -/
def beginRestart (s : State) : State :=
  enterBroadcasting (restartTable (s.setLink { s.link with restartPending := false }))

/-- Where the engine goes when an exchange or a broadcast is done (R76, R85). -/
def afterWork (s : State) : State :=
  if s.link.restartPending then beginRestart s
  else if s.link.stopPending then enterOff s
  else enterIdle s

/-- The engine takes a line fault (R78, R81): what was in hand is held and LINE_FAULT is posted. -/
def takeFault (s : State) : State :=
  post .lineFault 0 0 <|
    s.setLink { s.link with
      state := .fault, activity := .quiet, attempt := 0, quiet := 0, window := none
      heldBroadcast := s.link.state == .broadcasting }

/-! ## Reset of the RESETN pin -/

/-- While RESETN is low no access is taken and no event runs (R86, R87, R172, log 7). -/
def whileRunning (f : State → State) (s : State) : State :=
  match s.pins.resetn with
  | .high => f s
  | .low => s

end Sys2Proof.Machine
end

