-- ==== Sys2Proof/Machine/Flags.lean ====
section
/-! DEFINITION. The computed views of the state that software or the board sees as flags: the interrupt sources and
INTN, LSTA, the count registers, OLDEST_OPEN, the link outputs, and the echo comparator. -/

namespace Sys2Proof.Machine

/-- NOTICE: the notice queue holds at least one notice (R169). -/
def State.noticeSource (s : State) : Bool := !s.nq.notices.isEmpty

/-- COMPLETION: the completion queue holds at least one record (R169). -/
def State.completionSource (s : State) : Bool := !s.ce.completions.isEmpty

/-- DECISION: at least one deferred entry is OPEN (R169). -/
def State.decisionSource (s : State) : Bool := s.mu.queue.any fun d => d.decision.isNone

/-- LINE: the link engine is in FAULT (R169). -/
def State.lineSource (s : State) : Bool := s.link.state == .fault

/-- The four sources in the bit order of ISRC and IEN (R176). -/
def State.sources (s : State) : BitVec 4 :=
  BitVec.ofBool s.lineSource ++ BitVec.ofBool s.decisionSource ++ BitVec.ofBool s.completionSource ++
    BitVec.ofBool s.noticeSource

/-- INTN is driven low: RESETN is high and some true source is enabled (R171). -/
def State.intnLow (s : State) : Bool := s.pins.resetn == .high && (s.sources &&& s.win.ien) != 0

/-- TXEN: high while a frame is transmitted (R69, R85, R86). -/
def State.txen (s : State) : Bool := s.link.activity == .transmitting

/-- The frame on the line while TXEN is high: the current call, or the broadcast RELEASE (R67, R69, R85). -/
def State.txFrame (s : State) : Option (List Byte) :=
  if s.txen then
    match s.link.state with
    | .broadcasting => some broadcastFrame
    | .off | .idle | .sending | .waiting | .receiving | .fault | .stopping => s.link.current.map Call.frame
  else none

/-- The level of TXD in a bit time counted from the rise of TXEN: the bits of the frame, and high when it has ended and
whenever TXEN is low (R64, R69, Table 10-7). -/
def State.txd (s : State) (bitTime : Nat) : Level :=
  match s.txFrame with
  | none => .high
  | some bytes => levelOf ((lineBits bytes).getD bitTime true)

/-- The number of bits the engine drives while TXEN is high. -/
def State.txBits (s : State) : Nat :=
  match s.txFrame with
  | none => 0
  | some bytes => (lineBits bytes).length

/-- The echo comparator: RXD, sampled at the middle of a bit the engine drives, differs from the bit on TXD (R69). It
does not run while nothing is transmitted. -/
def State.echoMismatch (s : State) (bit : Nat) (rxd : Level) : Bool :=
  decide (bit < s.txBits) && decide (rxd ≠ s.txd bit)

/-- The bit time on the link, in µs (R64, Table 3-2). -/
def State.bitMicros (s : State) : Option Nat := Config.bitMicros s.link.rate

/-- The byte time in µs, ten bit times: the unit of the engine's gaps and limits (R64, Table 3-2). -/
def State.byteMicros (s : State) : Option Nat := s.bitMicros.map fun t => Config.byteBits * t

/-- LSTA (R175). -/
def State.lsta (s : State) : Byte := BitVec.ofBool s.win.refused ++ 0#4 ++ s.link.state.code

/-- OLDEST_OPEN: handle in bits 2..0 and generation in bits 6..3 of the oldest OPEN entry, or 0xFF (R158, R173). -/
def State.oldestOpen (s : State) : Byte :=
  match s.mu.queue.find? fun d => d.decision.isNone with
  | none => 0xFF
  | some d => 0#1 ++ s.mu.handles[d.handle.val].generation ++ BitVec.ofNat 3 d.handle.val

end Sys2Proof.Machine
end

