-- ==== Sys2Proof/Machine/Supervision.lean ====
section
/-! DEFINITION. Polling and supervision: the standing of polls, STATUS replies, misses and loss (R89, R100 to R106). -/

namespace Sys2Proof.Machine

/-- A valid reply of an ACTIVE module clears its misses (R103). -/
def clearMisses (i : Slot) (s : State) : State := s.updEntry i fun e => { e with missCount := 0 }

/-- A miss of an ACTIVE module: counted, and the entry enters LOST when the count has reached the limit (R104). -/
def countMiss (i : Slot) (s : State) : State :=
  let s1 := s.updEntry i fun e => { e with missCount := e.missCount + 1 }
  if s.sched.missLimit.toNat ≤ (s.entry i).missCount + 1 then enterLost i s1 else s1

/-- The next poll is due one poll period after now (R101). -/
def ActiveData.setNextPoll (now : BitVec 16) (period : Byte) (d : ActiveData) : ActiveData :=
  { d with
    nextDue := now + period.setWidth 16
    period := period
    standing := .notDue
    dueReached := false
    overdueReached := false }

/-- The poll times set at the delivery of a POLL exchange (R101). -/
def setNextPoll (i : Slot) (s : State) : State :=
  s.updEntry i fun e => e.updActive (ActiveData.setNextPoll s.sched.mscount e.pollPeriod)

/-- Compare an alarm byte with the baseline `base`, post ALARM_CHANGED if they differ (R102 step 2). -/
def postAlarm (i : Slot) (base alarm : Byte) (s : State) : State :=
  if alarm = base then s else post .alarmChanged (slotByte i) alarm s

/-- Apply a STATUS to an ACTIVE entry whose alarm baseline is `base` (R102 steps 2 to 4). -/
def applyStatus (i : Slot) (base : Byte) (r : StatusRecord) (s : State) : State :=
  (postAlarm i base r.alarm s).updEntry i fun e =>
    { e.updActive (fun d => { d with alarmBaseline := r.alarm }) with
      status := some r
      fetchWanted := r.pending != 0 }

/-- Delivery of a POLL exchange (R19, R101, R102, R104). -/
def deliverPoll (i : Slot) (o : ExchangeOutcome) (s : State) : State :=
  match (s.entry i).active? with
  | none => s
  | some d =>
    match o with
    | .reply (.status r) _ => applyStatus i d.alarmBaseline r (clearMisses i (setNextPoll i s))
    | .reply _ _ => clearMisses i (setNextPoll i s)
    | .silence | .garble => countMiss i (setNextPoll i s)

/-- What a tick that makes MSCOUNT `now` brings to the poll of an ACTIVE entry: the marks for POLL_DUE and
POLL_OVERDUE (R89, log 3). -/
def ActiveData.tickPoll (now : BitVec 16) (d : ActiveData) : ActiveData :=
  { d with
    dueReached := d.dueReached || (d.standing == .notDue && now == d.nextDue)
    overdueReached :=
      d.overdueReached ||
        ((d.standing == .due || d.dueReached) && now == d.nextDue + d.period.setWidth 16) }

/-- A NOT_DUE standing whose due time a tick has reached becomes DUE (R89). -/
def ActiveData.takeDue (d : ActiveData) : ActiveData :=
  if d.dueReached = true ∧ d.standing = .notDue then { d with standing := .due, dueReached := false } else d

/-- A DUE standing whose period in force a tick has run out becomes OVERDUE (R89). -/
def ActiveData.takeOverdue (d : ActiveData) : ActiveData :=
  if d.overdueReached = true ∧ d.standing = .due then { d with standing := .overdue, overdueReached := false } else d

end Sys2Proof.Machine
end

