-- ==== Sys2Proof/Machine/Commands.lean ====
section
/-! DEFINITION. The command engine: admission, start conditions, exchange ends, late results, deadlines and the
search of CANCEL (R107 to R134). -/

namespace Sys2Proof.Machine

/-! ## Admission (R109) -/

/-- The first check of SUBMIT that fails, or the target of an acceptable record (R109). -/
def State.checkStaged (s : State) : Except ActionResult Slot :=
  match slotOfByte s.win.staging.target with
  | none => .error .badTarget
  | some target =>
    if Config.commandData < s.win.staging.length.toNat then .error .badLength
    else if Config.deadlineLimit < s.win.staging.deadline.toNat then .error .badDeadline
    else if Config.commandPlaces ≤ s.ce.queue.length then .error .queueFull
    else .ok target

/-- The command record of the staging area (R109). -/
def Staging.command (g : Staging) (target : Slot) : Command where
  target := target
  code := g.code
  tag := g.tag
  payload := g.payload.toList.take g.length.toNat
  deadline := g.deadline.toNat

/-- The remaining deadline of a command when accepted; a deadline of 0 is none (R123). -/
def Command.remainingAtStart (c : Command) : Option Nat := if c.deadline = 0 then none else some c.deadline

/-- Append a command at the end of the queue, at the next place in acceptance order (R109, R110). -/
def acceptCommand (c : Command) (s : State) : State :=
  { s with ce :=
    { s.ce with
      queue := s.ce.queue ++ [⟨⟨c, s.ce.nextPlace, c.remainingAtStart⟩, none⟩]
      nextPlace := s.ce.nextPlace + 1 } }

/-! ## Starting (R112, R113) -/

/-- The target can take a command: ACTIVE, hold remaining 0, nothing outstanding and no verdict owed (R112). -/
def Entry.readyForCommand (e : Entry) : Bool :=
  e.isActive && e.hold == 0 && e.outstanding?.isNone && e.verdictOwed.isNone

/-- The oldest unsettled queued command to a slot (R112). -/
def State.oldestTo (s : State) (i : Slot) : Option QueuedCommand :=
  s.ce.queue.find? fun q => q.settled.isNone && q.held.cmd.target == i

/-- A queued command may start (R112, R114). -/
def State.isCandidate (s : State) (q : QueuedCommand) : Bool :=
  q.settled.isNone && (s.entry q.held.cmd.target).readyForCommand &&
    (s.oldestTo q.held.cmd.target).map (fun x => x.held.place) == some q.held.place &&
    decide (s.reservation < Config.completionPlaces)

/-- The command the engine names: the oldest candidate, the queue being in acceptance order (R112). -/
def State.startable (s : State) : Option QueuedCommand := s.ce.queue.find? s.isCandidate

/-- The COMMAND call of a record (R107, R191). -/
def Command.call (c : Command) (seq : Bool) : Call where
  cls := .command
  slot := c.target
  kind := .command
  address := slotAddress c.target
  seq := seq
  payload := c.code :: byteOfNat c.payload.length :: c.payload

/-- Start a command (R113): it leaves the queue and is in flight with clear marks, the target's sequence bit is
inverted, and the COMMAND call is handed in with the new bit. -/
def startCommand (q : QueuedCommand) (s : State) : State :=
  let i := q.held.cmd.target
  let seq := !(s.entry i).seqBit
  let s1 := s.updEntry i fun e => { e with seqBit := seq }
  handIn (q.held.cmd.call seq)
    { s1 with ce :=
      { s1.ce with
        queue := s1.ce.queue.eraseP fun x => x.held.place == q.held.place
        inFlight := some ⟨q.held, []⟩ } }

/-! ## The end of the exchange (R115 to R119) -/

/-- The status an end mark gives (R115). -/
def EndMark.status (m : EndMark) : CompletionStatus :=
  match m with
  | .cancel => .cancelled
  | .expired => .expired

/-- The status of a WORKING reply, or none where the command becomes outstanding: the mark set first decides (R118),
and without a mark the state of the entry (R115, R116). -/
def workingStatus (f : InFlight) (e : Entry) : Option CompletionStatus :=
  match f.marks with
  | m :: _ => some m.status
  | [] =>
    match e.state with
    | .active _ => none
    | .negotiating _ => some .renegotiated
    | .vacant | .failed _ | .lost => some .detached

/-- Clear the in-flight reference. -/
def clearInFlight (s : State) : State := { s with ce := { s.ce with inFlight := none } }

/-- End the in-flight command with a completion record (R117). -/
def endInFlight (f : InFlight) (status : CompletionStatus) (detail : Byte) (data : List Byte) (s : State) : State :=
  appendCompletion (f.held.completion status detail data) (clearInFlight s)

/-- A WORKING reply: outstanding in an ACTIVE entry with no mark, otherwise a record (R115, R116, R119). -/
def endWorking (i : Slot) (f : InFlight) (seq : Bool) (s : State) : State :=
  match workingStatus f (s.entry i) with
  | none => (clearInFlight s).updEntry i (Entry.setOutstanding (some ⟨f.held, seq⟩))
  | some status => endInFlight f status 0 [] s

/-- A valid reply clears the misses of an ACTIVE entry and of no other (R103). -/
def clearMissesIfActive (i : Slot) (s : State) : State := if (s.entry i).isActive then clearMisses i s else s

/-- A failed exchange is a miss of an ACTIVE entry and of no other (R104, R116). -/
def countMissIfActive (i : Slot) (s : State) : State := if (s.entry i).isActive then countMiss i s else s

/-- Delivery of a COMMAND exchange to slot i with the sequence bit its call carried (R115, R116). -/
def deliverCommand (i : Slot) (seq : Bool) (o : ExchangeOutcome) (s : State) : State :=
  match s.ce.inFlight with
  | none => s
  | some f =>
    match o with
    | .reply (.result data) _ => endInFlight f .ok 0 data (clearMissesIfActive i s)
    | .reply (.refused reason) _ => endInFlight f .refused reason [] (clearMissesIfActive i s)
    | .reply .working _ => endWorking i f seq (clearMissesIfActive i s)
    | .reply _ _ => s
    | .silence | .garble => countMissIfActive i (endInFlight f .noReply 0 [] s)

/-! ## Late results (R121) -/

/-- The late result offered for a slot matches its outstanding command (R121). -/
def State.lateMatches (s : State) (i : Slot) (seq : Bool) (data : List Byte) : Bool :=
  match (s.entry i).outstanding? with
  | none => false
  | some o => o.seq == seq && decide (data.length ≤ Config.commandData)

/-! ## CANCEL (R128, R129) -/

/-- Where a held command that CANCEL can find stands. -/
inductive HeldAt where
  | queued (q : QueuedCommand)
  | inFlight (f : InFlight)
  | outstanding (i : Slot) (o : Outstanding)
  deriving DecidableEq, Repr

/-- The held command itself. -/
def HeldAt.held (h : HeldAt) : HeldCommand :=
  match h with
  | .queued q => q.held
  | .inFlight f => f.held
  | .outstanding _ o => o.held

/-- The commands CANCEL searches: queued unsettled, in flight and outstanding (R128). -/
def State.heldCommands (s : State) : List HeldAt :=
  (s.ce.queue.filter fun q => q.settled.isNone).map HeldAt.queued ++ s.ce.inFlight.toList.map HeldAt.inFlight ++
    allSlots.filterMap fun i => (s.entry i).outstanding?.map (HeldAt.outstanding i)

/-- The oldest of some held commands, by place in acceptance order. -/
def oldestHeld (l : List HeldAt) : Option HeldAt :=
  match l with
  | [] => none
  | h :: rest =>
    match oldestHeld rest with
    | none => some h
    | some b => if h.held.place ≤ b.held.place then some h else some b

/-- The command a CANCEL of a tag finds (R128). -/
def State.findTag (s : State) (tag : Byte) : Option HeldAt :=
  oldestHeld (s.heldCommands.filter fun h => h.held.cmd.tag == tag)

/-- An end mark added after those already set; a mark already set stays as it is (R118). -/
def InFlight.addMark (m : EndMark) (f : InFlight) : InFlight :=
  if f.marks.contains m then f else { f with marks := f.marks ++ [m] }

/-- Set an end mark on the in-flight command, if there is one (R118). -/
def markInFlight (m : EndMark) (s : State) : State :=
  { s with ce := { s.ce with inFlight := s.ce.inFlight.map (InFlight.addMark m) } }

/-- CANCEL's effect and result on the command found (R129). -/
def cancelFound (found : Option HeldAt) (s : State) : State × ActionResult :=
  match found with
  | none => (s, .notFound)
  | some (.queued q) => (settle (fun x => x.held.place == q.held.place) .cancelled s, .removed)
  | some (.inFlight _) => (markInFlight .cancel s, .atEnd)
  | some (.outstanding i _) => (completeOutstanding i .cancelled [] s, .cancelled)

/-! ## Deadlines (R123, R124) -/

/-- A remaining deadline after one tick; one that has reached 0 stays there until its expiry is taken (log 3). -/
def HeldCommand.tick (h : HeldCommand) : HeldCommand := { h with remaining := h.remaining.map fun n => n - 1 }

/-- A queued command's deadline runs while it is unsettled (R123). -/
def QueuedCommand.tick (q : QueuedCommand) : QueuedCommand :=
  if q.settled.isNone then { q with held := q.held.tick } else q

/-- The in-flight command's deadline runs (R123). -/
def InFlight.tick (f : InFlight) : InFlight := { f with held := f.held.tick }

/-- An outstanding command's deadline runs (R123). -/
def Outstanding.tick (o : Outstanding) : Outstanding := { o with held := o.held.tick }

/-- A command's remaining deadline has reached 0. -/
def HeldCommand.hasExpired (h : HeldCommand) : Bool := h.remaining == some 0

/-- Insert a slot by the place of its outstanding command. -/
def insertByPlace (x : Nat × Slot) (l : List (Nat × Slot)) : List (Nat × Slot) :=
  match l with
  | [] => [x]
  | y :: ys => if x.1 ≤ y.1 then x :: y :: ys else y :: insertByPlace x ys

/-- The slots whose outstanding command has expired, with its place in acceptance order. -/
def State.expiredOutstanding (s : State) : List (Nat × Slot) :=
  allSlots.filterMap fun i =>
    (s.entry i).outstanding?.bind fun o => if o.held.hasExpired then some (o.held.place, i) else none

/-- End one outstanding command EXPIRED (R124). -/
def expireOutstanding (s : State) (x : Nat × Slot) : State := completeOutstanding x.2 .expired [] s

/-- Mark the in-flight command expired, if its remaining deadline has reached 0 (R124). -/
def expireInFlight (s : State) : State :=
  match s.ce.inFlight with
  | none => s
  | some f => if f.held.hasExpired then markInFlight .expired s else s

/-- The expiries that have fallen: outstanding commands first, in acceptance order, then the in-flight command's mark,
then the queued commands in queue order (R124). -/
def expireCommands (s : State) : State :=
  settle (fun q => q.held.hasExpired) .expired
    (expireInFlight ((s.expiredOutstanding.foldr insertByPlace []).foldl expireOutstanding s))

end Sys2Proof.Machine
end

