-- ==== Sys2Proof/Machine/Messages.lean ====
section
/-! DEFINITION. The message unit: the judging of messages, the deferred queue, the VERDICT exchange and the verdict
timeout (R135 to R161). -/

namespace Sys2Proof.Machine

/-- Reason MALFORMED (Table 6-1). -/
def reasonMalformed : Byte := 0xF0

/-- Reason STALE (Table 6-1). -/
def reasonStale : Byte := 0xF1

/-- Reason TIMEOUT (R154). -/
def reasonTimeout : Byte := 0xF2

/-- Make ACCEPT owed for a message (R143). -/
def oweAccept (i : Slot) (number : BitVec 4) (renegotiation : Bool) (s : State) : State :=
  oweVerdict i ⟨number, .accept, 0⟩ renegotiation s

/-- Make REJECT owed for a message (R143). -/
def oweReject (i : Slot) (number : BitVec 4) (reason : Byte) (s : State) : State :=
  oweVerdict i ⟨number, .reject, reason⟩ false s

/-- A malformed message: REJECT MALFORMED is owed and MESSAGE_REJECTED posted with its class (R141, R145). -/
def rejectMalformed (i : Slot) (cls : Byte) (number : BitVec 4) (s : State) : State :=
  post .messageRejected (slotByte i) cls (oweReject i number reasonMalformed s)

/-- A HOLD message (R141). -/
def judgeHold (i : Slot) (number : BitVec 4) (data : List Byte) (s : State) : State :=
  match data with
  | [] => rejectMalformed i 1 number s
  | b :: _ => oweAccept i number false (s.updEntry i fun e => { e with hold := b })

/-- A LATE_RESULT message (R121, R142). -/
def judgeLateResult (i : Slot) (number : BitVec 4) (data : List Byte) (seq : Bool) (s : State) : State :=
  if s.lateMatches i seq data then oweAccept i number false (completeOutstanding i .ok data s)
  else post .lateStale (slotByte i) 0 (oweReject i number reasonStale s)

/-- The lowest-numbered free handle (R148). -/
def State.freeHandle (s : State) : Option Handle := (List.finRange 8).find? fun h => (s.deferredAt h).isNone

/-- A message of a software class becomes an OPEN deferred entry (R148). -/
def deferMessage (i : Slot) (cls : Byte) (number : BitVec 4) (data : List Byte) (s : State) : State :=
  match s.freeHandle with
  | none => s
  | some h =>
    { s with mu :=
      { s.mu with
        queue := s.mu.queue ++ [⟨h, i, cls, number, data, none, 0, false⟩]
        handles := s.mu.handles.set h.val ⟨s.mu.handles[h.val].generation + 1, .none⟩ } }

/-- A new message judged by its class (R140, Table 6-1). -/
def judgeClass (i : Slot) (cls : Byte) (number : BitVec 4) (data : List Byte) (seq : Bool) (s : State) : State :=
  if 16 ≤ cls.toNat then deferMessage i cls number data s
  else if cls = 1 then judgeHold i number data s
  else if cls = 2 then judgeLateResult i number data seq s
  else if cls = 3 then oweAccept i number true s
  else rejectMalformed i cls number s

/-- Post MESSAGE_GAP for a new message whose number does not follow the last one (R139). -/
def postGap (i : Slot) (number : BitVec 4) (s : State) : State :=
  match (s.entry i).lastNumber with
  | none => s
  | some n => if number = n + 1 then s else post .messageGap (slotByte i) (number.setWidth 8) s

/-- A message judged by its number and then by its class (R138). -/
def judgeMessage (i : Slot) (cls : Byte) (number : BitVec 4) (data : List Byte) (seq : Bool) (s : State) : State :=
  if (s.entry i).lastNumber = some number then
    match (s.entry i).lastVerdict with
    | none => s
    | some v => oweVerdict i v false s
  else
    judgeClass i cls number data seq
      ((postGap i number s).updEntry i fun e => { e with lastNumber := some number })

/-- Delivery of a FETCH exchange (R19, R103, R104, R136). -/
def deliverFetch (i : Slot) (o : ExchangeOutcome) (s : State) : State :=
  if (s.entry i).isActive then
    match o with
    | .reply (.message cls number data) seq => judgeMessage i cls number data seq (clearMisses i s)
    | .reply .empty _ => (clearMisses i s).updEntry i fun e => { e with fetchWanted := false }
    | .reply _ _ => clearMisses i s
    | .silence | .garble => countMiss i s
  else s

/-- The verdict carried: cleared, and the slot's DECIDED entry freed (R146, R151). -/
def verdictCarried (i : Slot) (s : State) : State := freeDecided i (clearOwed i s)

/-- The verdict owed to the entry carries a renegotiation request (R143). -/
def Entry.wantsRenegotiation (e : Entry) : Bool := e.verdictOwed.any fun v => v.renegotiation

/-- Delivery of a VERDICT exchange (R19, R20, R146). -/
def deliverVerdict (i : Slot) (o : ExchangeOutcome) (s : State) : State :=
  match (s.entry i).state with
  | .active _ =>
    match o with
    | .reply _ _ =>
      let s1 := verdictCarried i (clearMisses i s)
      if (s.entry i).wantsRenegotiation then renegotiate i 1 s1 else s1
    | .silence | .garble => countMiss i s
  | .negotiating _ =>
    match o with
    | .reply _ _ => verdictCarried i s
    | .silence | .garble => s
  | .vacant | .failed _ | .lost => s

/-- The age of an entry after one tick: counted while it is OPEN, and marked when it has reached ten times the verdict
timeout (R154, log 3). -/
def Deferred.tick (timeout : Byte) (d : Deferred) : Deferred :=
  if d.decision = none ∧ d.timeoutReached = false then
    { d with age := d.age + 1, timeoutReached := decide (10 * timeout.toNat ≤ d.age + 1) }
  else d

/-- An OPEN entry decided by the timeout (R154). -/
def timeOut (s : State) (d : Deferred) : State :=
  post .verdictTimeout (slotByte d.slot) (handleByte d.handle)
    (decideEntry d ⟨.reject, reasonTimeout, .timeout⟩ s)

/-- The OPEN entries whose age a tick has brought to the timeout, decided in queue order (R154). -/
def timeOutAll (s : State) : State :=
  (s.mu.queue.filter fun d => d.timeoutReached && d.decision.isNone).foldl timeOut s

end Sys2Proof.Machine
end

