-- ==== Sys2Proof/Machine/Negotiation.lean ====
section
/-! DEFINITION. The page exchange unit: validation of the local page list, the page offered in a call, the judging
of a PAGE step, profile resolution, and the outcomes of PAGE and SETTLE exchanges (R37 to R62). -/

namespace Sys2Proof.Machine

/-! ## The local page list -/

/-- The entries of the list after entry 0 are in order, with `args` arguments still to come (R38). -/
def validRest (args : Nat) (rest : List LocalPage) : Bool :=
  match rest with
  | [] => args == 0
  | p :: ps =>
    match p.kind with
    | .base => false
    | .null => false
    | .message =>
      args == 0 && p.body.code != 0 && decide (p.body.argCount ≤ 4) && validRest p.body.argCount ps
    | .unformatted => args != 0 && validRest (args - 1) ps

/-- The entries 0 to LPCOUNT - 1 (R37). -/
def PageExchange.localList (px : PageExchange) : List LocalPage := px.pages.toList.take px.count

/-- The local page list passes the validation of ENABLE_LINK (R38). -/
def PageExchange.valid (px : PageExchange) : Bool :=
  match px.localList with
  | [] => false
  | p :: ps => p.kind == .base && validRest 0 ps

/-- The local entry a PAGE call offers, or none where it offers a NULL page (R39). -/
def PageExchange.offered (px : PageExchange) (ctx : Context) : Option LocalPage :=
  if ctx.localDone = false ∧ ctx.localIndex < px.count then px.pages[ctx.localIndex]? else none

/-- The page of a PAGE call (R39, R43). -/
def PageExchange.buildPage (px : PageExchange) (ctx : Context) : Page :=
  let ack := ctx.ack.getD ⟨false, false⟩
  let blank : Page :=
    { kind := .null, more := false, toggle := ctx.localToggle, ackValid := ctx.ack.isSome
      ackToggle := ack.toggle, comply := ack.comply, fresh := ctx.fresh, body := ⟨0, 0, 0, 0⟩ }
  match px.offered ctx with
  | none => blank
  | some p => { blank with kind := p.kind, more := ctx.localIndex + 1 != px.count, body := sentBody p.kind p.body }

/-! ## The first half of a step: the module's acknowledgement (R45) -/

/-- The reply acknowledges the page offered in the call. -/
def ackMatches (ctx : Context) (p : Page) : Bool := p.ackValid && p.ackToggle == ctx.localToggle

/-- The local MESSAGE entry a step's acknowledgement answers, if it answers one. -/
def PageExchange.answered (px : PageExchange) (ctx : Context) (p : Page) : Option LocalPage :=
  if ackMatches ctx p then (px.offered ctx).filter fun l => l.kind == .message else none

/-- The local comply record with the flag of a local index set to a comply. -/
def setFlag (r : BitVec 8) (k : Nat) (b : Bool) : BitVec 8 :=
  if b then r ||| (1#8 <<< k) else r &&& ~~~(1#8 <<< k)

/-- The local comply record after the acknowledgement (R45 step 1). -/
def PageExchange.recordComply (px : PageExchange) (ctx : Context) (p : Page) (r : NegotiationRecord) :
    NegotiationRecord :=
  match px.answered ctx p with
  | none => r
  | some _ => { r with comply := setFlag r.comply ctx.localIndex p.comply }

/-- The acknowledgement declines a required entry (R45 step 1). -/
def PageExchange.declined (px : PageExchange) (ctx : Context) (p : Page) : Bool :=
  match px.answered ctx p with
  | none => false
  | some l => l.required && !p.comply

/-- The local fields of the context after the acknowledgement (R45 steps 2 and 3). -/
def PageExchange.advance (px : PageExchange) (ctx : Context) (p : Page) : Context :=
  if ackMatches ctx p then
    match px.offered ctx with
    | some _ =>
      { ctx with
        localIndex := ctx.localIndex + 1
        localDone := ctx.localIndex + 1 == px.count
        localToggle := !ctx.localToggle }
    | none => { ctx with localDone := true, localToggle := !ctx.localToggle }
  else ctx

/-! ## The second half of a step: the module's page (R46 to R50) -/

/-- The module's page is new: it is the first, or its toggle differs from the last accepted one (R46, R47). -/
def isNewPage (ctx : Context) (p : Page) : Bool := ctx.moduleToggle != some p.toggle

/-- A condition of Table 2-4 holds of a new page after the first (R48). -/
def outOfOrder (ctx : Context) (p : Page) : Bool :=
  match p.kind with
  | .base => true
  | .unformatted => ctx.argsLeft == 0 || ctx.finalSeen || (!p.more && decide (1 < ctx.argsLeft))
  | .message =>
    ctx.argsLeft != 0 || ctx.finalSeen || p.body.code == 0 || decide (4 < p.body.argCount) ||
      (p.body.argCount != 0 && !p.more)
  | .null => ctx.argsLeft != 0 || !ctx.finalSeen

/-- The fault found in the module's page, if any (R46, R48). -/
def pageFault (cls : BitVec 4) (ctx : Context) (p : Page) : Option FaultCode :=
  match ctx.moduleToggle with
  | none =>
    if p.kind ≠ .base then some .pageOrder
    else if p.body.cls ≠ cls then some .classMismatch
    else none
  | some _ => if isNewPage ctx p && outOfOrder ctx p then some .pageOrder else none

/-- The comply given to a new page (R40); an UNFORMATTED page takes the comply of its MESSAGE page, which the ack to
deliver still carries (log 13). -/
def complyGiven (accept : BitVec 256) (ctx : Context) (p : Page) : Bool :=
  match p.kind with
  | .base => true
  | .message => accept.getLsbD p.body.code.toNat
  | .unformatted => (ctx.ack.map Ack.comply).getD false
  | .null => false

/-- The context after a page is accepted (R49). -/
def acceptPage (accept : BitVec 256) (ctx : Context) (p : Page) : Context :=
  { ctx with
    moduleToggle := some p.toggle
    ack := some ⟨p.toggle, complyGiven accept ctx p⟩
    argsLeft :=
      match p.kind with
      | .base => ctx.argsLeft
      | .message => p.body.argCount
      | .unformatted => ctx.argsLeft - 1
      | .null => ctx.argsLeft
    finalSeen := ctx.finalSeen || !p.more }

/-- The negotiation record of an entry; one that has none counts from zero (log 21). -/
def Entry.negotiationRecord (e : Entry) : NegotiationRecord := e.record.getD ⟨0, 0⟩

/-- The record with one more page dropped, saturating at 255 (R50). -/
def NegotiationRecord.drop (r : NegotiationRecord) : NegotiationRecord :=
  if r.dropped = 255 then r else { r with dropped := r.dropped + 1 }

/-- Keep an accepted page: a BASE page becomes the module base page (R46), a MESSAGE or UNFORMATTED page goes to the
pool or is counted as dropped (R50), and a NULL page is not stored. -/
def keepPage (i : Slot) (p : Page) (comply : Bool) (s : State) : State :=
  match p.kind with
  | .base => s.updEntry i fun e => { e with basePage := some p.body }
  | .message | .unformatted =>
    if 0 < s.poolFree then
      s.updEntry i fun e => { e with pages := e.pages ++ [⟨p.kind, p.body, comply⟩] }
    else s.updEntry i fun e => { e with record := some e.negotiationRecord.drop }
  | .null => s

/-! ## The end of a step (R51, R54) -/

/-- The highest-numbered profile of a candidate set (R54). -/
def highestProfile (mask : Byte) : Option Profile :=
  (List.finRange 8).reverse.find? fun p => mask.getLsbD p.val

/-- The candidate set of an entry (R54 step 2). -/
def State.candidates (s : State) (e : Entry) : Byte :=
  s.px.pages[0].body.mask &&& (e.basePage.getD ⟨0, 0, 0, 0⟩).mask &&&
    s.px.filter[(e.cls.getD 0).toNat]'(e.cls.getD 0).isLt

/-- Resolution (R54): the fault it ends in, or the profile proposed. -/
def State.resolve (s : State) (e : Entry) : Except FaultCode Profile :=
  if (e.basePage.getD ⟨0, 0, 0, 0⟩).fault then .error .moduleReported
  else
    match highestProfile (s.candidates e) with
    | none => .error .noCommonProfile
    | some p => .ok p

/-- Set the context of a NEGOTIATING entry. -/
def setContext (i : Slot) (ctx : Context) (s : State) : State :=
  s.updEntry i fun e => { e with state := .negotiating ctx }

/-- The end of a step judged without a fault (R51); `ctx` is the context after the step and `finalBefore` says that the
module's final page was already seen when the step's call was built. -/
def endStep (i : Slot) (ctx : Context) (finalBefore : Bool) (s : State) : State :=
  if ctx.localDone && finalBefore then
    match s.resolve (s.entry i) with
    | .error f => enterFailed i f s
    | .ok p => setContext i { ctx with phase := .settle p } s
  else if Config.stepLimit ≤ ctx.steps then enterFailed i .stepLimit s
  else setContext i ctx s

/-- The second half of a step and its end (R46 to R51), on the context the first half left. -/
def judgePage (i : Slot) (ctx : Context) (p : Page) (finalBefore : Bool) (s : State) : State :=
  match pageFault ((s.entry i).cls.getD 0) ctx p with
  | some f => enterFailed i f s
  | none =>
    if isNewPage ctx p then
      endStep i (acceptPage s.px.accept ctx p) finalBefore (keepPage i p (complyGiven s.px.accept ctx p) s)
    else endStep i ctx finalBefore s

/-- A step: a PAGE exchange that ended REPLY (R44, R45). -/
def pageStep (i : Slot) (ctx : Context) (p : Page) (s : State) : State :=
  let counted := { ctx with steps := ctx.steps + 1, fresh := false }
  let s1 := s.updEntry i fun e => { e with record := some (s.px.recordComply ctx p e.negotiationRecord) }
  if s.px.declined ctx p then enterFailed i .notComplied s1
  else judgePage i (s.px.advance counted p) p ctx.finalSeen s1

/-! ## Outcomes (R44, R56) -/

/-- Delivery of a PAGE exchange (R44); an entry that is not NEGOTIATING discards it (R19). -/
def deliverPage (i : Slot) (o : ExchangeOutcome) (s : State) : State :=
  match (s.entry i).context? with
  | none => s
  | some ctx =>
    match o with
    | .reply (.page p) _ => pageStep i ctx p s
    | .reply _ _ => s
    | .silence | .garble => enterFailed i .silent s

/-- Delivery of a SETTLE exchange (R56); an entry that is not NEGOTIATING discards it (R19). -/
def deliverSettle (i : Slot) (o : ExchangeOutcome) (s : State) : State :=
  match (s.entry i).context? with
  | none => s
  | some ctx =>
    match o, ctx.phase with
    | .reply (.settleAck b) _, .settle p =>
      if b = profileByte p then enterActive i p s else enterFailed i .profileDisagree s
    | .reply _ _, _ => s
    | .silence, _ | .garble, _ => enterFailed i .silent s

end Sys2Proof.Machine
end

