-- ==== Sys2Proof/Machine/Scheduler.lean ====
section
/-! DEFINITION. The call scheduler's choice and the delivery of the outcome of an exchange (R19 to R28, R76,
R90 to R99). -/

namespace Sys2Proof.Machine

/-! ## Work of the eight classes (Table 4-1) -/

/-- A call a class has chosen, before it is built. -/
inductive Work where
  | release (i : Slot)
  | verdict (i : Slot)
  | negotiation (i : Slot)
  | overduePoll (i : Slot)
  | command (q : QueuedCommand)
  | fetch (i : Slot)
  | duePoll (i : Slot)
  | census (i : Slot)
  deriving DecidableEq, Repr

/-- The poll standing of an ACTIVE entry is the one given (R89). -/
def Entry.standingIs (t : Standing) (e : Entry) : Bool := e.active?.any fun d => d.standing == t

/-- A slot is eligible for fetch (R97). -/
def State.fetchEligible (s : State) (i : Slot) : Bool :=
  (s.entry i).isActive && (s.entry i).fetchWanted && (s.deferredOf i).isNone && (s.entry i).verdictOwed.isNone

/-- A slot is eligible for census (R23). -/
def State.censusEligible (s : State) (i : Slot) : Bool :=
  (s.entry i).isVacant && (s.entry i).censusEnable && !(s.entry i).releaseOwed

/-- The release class: the lowest slot with release owed (R92). -/
def State.releaseWork (s : State) : Option Work :=
  (allSlots.find? fun i => (s.entry i).releaseOwed).map Work.release

/-- The verdict class: the first ACTIVE slot in the owed order (R93). -/
def State.verdictWork (s : State) : Option Work :=
  (s.sched.owed.find? fun i => (s.entry i).isActive).map Work.verdict

/-- The negotiation class: the first NEGOTIATING slot from the negotiation pointer (R94). -/
def State.negotiationWork (s : State) : Option Work :=
  ((slotsFrom s.sched.negPtr).find? fun i => (s.entry i).isNegotiating).map Work.negotiation

/-- The overdue-poll class: the lowest OVERDUE slot (R95). -/
def State.overdueWork (s : State) : Option Work :=
  (allSlots.find? fun i => (s.entry i).standingIs .overdue).map Work.overduePoll

/-- The command class: the command the engine names (R96). -/
def State.commandWork (s : State) : Option Work := s.startable.map Work.command

/-- The fetch class: the first eligible slot from the fetch pointer, while the deferred queue is not full (R97). -/
def State.fetchWork (s : State) : Option Work :=
  if Config.deferredPlaces ≤ s.mu.queue.length then none
  else ((slotsFrom s.sched.fetchPtr).find? s.fetchEligible).map Work.fetch

/-- The due-poll class: the lowest DUE slot (R98). -/
def State.dueWork (s : State) : Option Work :=
  (allSlots.find? fun i => (s.entry i).standingIs .due).map Work.duePoll

/-- The census class: the first eligible slot from the sweep pointer, once the interval has elapsed (R23, R99). -/
def State.censusWork (s : State) : Option Work :=
  if s.sched.censusElapsed < s.sched.censusInterval.toNat then none
  else ((slotsFrom s.sched.sweep).find? s.censusEligible).map Work.census

/-- The first class with work, in the order of Table 4-1, and the call it picks (R91). -/
def State.nextWork (s : State) : Option Work :=
  s.releaseWork <|> s.verdictWork <|> s.negotiationWork <|> s.overdueWork <|> s.commandWork <|> s.fetchWork <|>
    s.dueWork <|> s.censusWork

/-! ## Building the call -/

/-- A call to a slot at its own address, with sequence bit 0 (R77). -/
def callTo (cls : SchedClass) (kind : CallKind) (i : Slot) (payload : List Byte) : Call where
  cls := cls
  slot := i
  kind := kind
  address := slotAddress i
  seq := false
  payload := payload

/-- The VERDICT call of an entry (R146). -/
def verdictCall (i : Slot) (e : Entry) : Call :=
  callTo .verdict .verdict i <|
    match e.verdictOwed with
    | none => []
    | some v => [v.verdict.number.setWidth 8, v.verdict.code.code, v.verdict.reason]

/-- The PAGE or SETTLE call of a NEGOTIATING entry (R43, R55). -/
def negotiationCall (i : Slot) (px : PageExchange) (ctx : Context) : Call :=
  match ctx.phase with
  | .exchange => callTo .negotiation .page i (px.buildPage ctx).bytes
  | .settle p => callTo .negotiation .settle i [profileByte p]

/-- The CENSUS call for a slot, to address 0 (R99). -/
def censusCall (i : Slot) : Call := { callTo .census .census i [slotByte i] with address := 0 }

/-- Hand in the call of the work chosen, with the choosing step of its class (R92 to R99). -/
def takeWork (w : Work) (s : State) : State :=
  match w with
  | .release i => handIn (callTo .release .release i []) s
  | .verdict i => handIn (verdictCall i (s.entry i)) s
  | .negotiation i =>
    match (s.entry i).context? with
    | none => s
    | some ctx =>
      handIn (negotiationCall i s.px ctx) { s with sched := { s.sched with negPtr := nextSlot i } }
  | .overduePoll i => handIn (callTo .overduePoll .poll i []) s
  | .command q => startCommand q s
  | .fetch i => handIn (callTo .fetch .fetch i []) { s with sched := { s.sched with fetchPtr := nextSlot i } }
  | .duePoll i => handIn (callTo .duePoll .poll i []) s
  | .census i =>
    handIn (censusCall i) { s with sched := { s.sched with sweep := nextSlot i, censusElapsed := 0 } }

/-- A choice: made in IDLE when some class has work (R90). -/
def chooseCall (s : State) : State :=
  match s.link.state with
  | .idle =>
    match s.nextWork with
    | none => s
    | some w => takeWork w s
  | .off | .sending | .waiting | .receiving | .broadcasting | .fault | .stopping => s

/-! ## Delivery (R19, R76) -/

/-- Clear a slot's census enable and post the notice of its cause (R26, R27). -/
def stopCensus (i : Slot) (kind : NoticeKind) (detail : Byte) (s : State) : State :=
  post kind (slotByte i) detail (s.updEntry i fun e => { e with censusEnable := false })

/-- Delivery of a CENSUS exchange (R19, R24 to R27). -/
def deliverCensus (i : Slot) (o : ExchangeOutcome) (s : State) : State :=
  if (s.entry i).isVacant && (s.entry i).censusEnable then
    match o with
    | .reply (.hello slot cls) _ =>
      if slot = slotByte i then enterNegotiating i cls s else stopCensus i .slotMismatch slot s
    | .reply _ _ => s
    | .silence => s
    | .garble => stopCensus i .slotConflict 0 s
  else s

/-- Delivery of a RELEASE exchange, whatever its outcome (R19, R28). -/
def deliverRelease (i : Slot) (s : State) : State :=
  if (s.entry i).isVacant then s.updEntry i fun e => { e with releaseOwed := false } else s

/-- Delivery of an exchange to the block that owns its kind of call (R19, R76). -/
def deliver (c : Call) (o : ExchangeOutcome) (s : State) : State :=
  match c.kind with
  | .census => deliverCensus c.slot o s
  | .page => deliverPage c.slot o s
  | .settle => deliverSettle c.slot o s
  | .poll => deliverPoll c.slot o s
  | .fetch => deliverFetch c.slot o s
  | .verdict => deliverVerdict c.slot o s
  | .command => deliverCommand c.slot c.seq o s
  | .release => deliverRelease c.slot s

/-! ## The end of an attempt (R74, R76) -/

/-- The attempt that has just ended is followed by another (R24, R74). -/
def retries (c : Call) (attempt : Nat) (limit : Byte) (o : ExchangeOutcome) : Bool :=
  match o with
  | .reply _ _ => false
  | .silence =>
    match c.kind with
    | .census => false
    | .page | .settle | .poll | .fetch | .verdict | .command | .release => decide (attempt ≤ limit.toNat)
  | .garble =>
    match c.kind with
    | .census => attempt == 1
    | .page | .settle | .poll | .fetch | .verdict | .command | .release => decide (attempt ≤ limit.toNat)

/-- The retry gap begins, and with it the next attempt (R74, Table 3-4, log 9). -/
def beginGap (s : State) : State :=
  s.setLink { s.link with
    state := exchangeState s.link .sending, activity := .gap, attempt := s.link.attempt + 1, window := none }

/-- The delivery is done: the current call is cleared and the engine goes on (R76). -/
def finishExchange (s : State) : State :=
  afterWork (s.setLink { s.link with current := none, attempt := 0 })

/-- An attempt of the exchange in progress ends (R74, R76). -/
def endAttempt (o : ExchangeOutcome) (s : State) : State :=
  match s.link.current with
  | none => s
  | some c =>
    if retries c s.link.attempt s.link.retryLimit o then beginGap s else finishExchange (deliver c o s)

/-- An exchange is in the phase given, shown by its own state or by STOPPING (R63, R83). -/
def State.exchangeIn (s : State) (shown : LinkState) (act : Activity) : Bool :=
  s.link.activity == act && (s.link.state == shown || s.link.state == .stopping)

end Sys2Proof.Machine
end

