-- ==== Sys2Proof/Machine/Line.lean ====
section
/-! DEFINITION. The events on the line: choice and transmission of a call, the reply window, reception, retries, the
broadcast, faults and their end (R69 to R74, R76, R78 to R81, R85, R90). -/

namespace Sys2Proof.Machine

/-- CALL_CHOICE (R90, R91). -/
def execCallChoice (s : State) : Host.Outcome State Fault Refusal := .next (whileRunning chooseCall s)

/-- The last stop bit of the frame on the line ends and TXEN falls: the reply window of a call begins with the length
the parameter then has (R69, R70), and a broadcast waits for its frame to end (R85). -/
def callSent (s : State) : State :=
  if s.exchangeIn .sending .transmitting then
    s.setLink { s.link with
      state := exchangeState s.link .waiting, activity := .awaiting, window := some s.link.replyWindow }
  else if s.link.state = .broadcasting ∧ s.link.activity = .transmitting then
    s.setLink { s.link with activity := .frameEnding }
  else s

/-- CALL_SENT (R69). -/
def execCallSent (s : State) : Host.Outcome State Fault Refusal := .next (whileRunning callSent s)

/-- A start bit confirmed in the reply window begins the reply (R71). -/
def replyStartBit (s : State) : State :=
  if s.exchangeIn .waiting .awaiting then
    s.setLink { s.link with state := exchangeState s.link .receiving, activity := .receiving, window := none }
  else s

/-- REPLY_START_BIT (R71). -/
def execReplyStartBit (s : State) : Host.Outcome State Fault Refusal := .next (whileRunning replyStartBit s)

/-- The reply window ends with no start bit: the attempt ends SILENCE (R71). -/
def replyWindowExpiry (s : State) : State :=
  if s.exchangeIn .waiting .awaiting then endAttempt .silence s else s

/-- REPLY_WINDOW_EXPIRY (R71). -/
def execReplyWindowExpiry (s : State) : Host.Outcome State Fault Refusal := .next (whileRunning replyWindowExpiry s)

/-- The retry gap ends and the current call is transmitted again (R74). -/
def retryGapEnd (s : State) : State :=
  if s.exchangeIn .sending .gap then s.setLink { s.link with activity := .transmitting } else s

/-- RETRY_GAP_END (R74). -/
def execRetryGapEnd (s : State) : Host.Outcome State Fault Refusal := .next (whileRunning retryGapEnd s)

/-- The outcome of the attempt when a frame ends: classified against the current call (R73). -/
def State.frameOutcome (s : State) (samples : List Samples) : ExchangeOutcome :=
  match s.link.current with
  | none => .garble
  | some c => classify c (receivedBytes samples) (anyFramingError samples)

/-- A received frame ends (R72, R73). -/
def replyFrameEnd (first : Samples) (rest : List Samples) (s : State) : State :=
  if s.exchangeIn .receiving .receiving then endAttempt (s.frameOutcome (first :: rest)) s else s

/-- REPLY_FRAME_END (R73). -/
def execReplyFrameEnd (first : Samples) (rest : List Samples) (s : State) : Host.Outcome State Fault Refusal :=
  .next (whileRunning (replyFrameEnd first rest) s)

/-- 48 byte times have passed: the attempt ends GARBLE at once (R72). -/
def receptionLimit (s : State) : State :=
  if s.exchangeIn .receiving .receiving then endAttempt .garble s else s

/-- RECEPTION_LIMIT (R72). -/
def execReceptionLimit (s : State) : Host.Outcome State Fault Refusal := .next (whileRunning receptionLimit s)

/-- The broadcast RELEASE frame has ended (R85). -/
def broadcastEnd (s : State) : State :=
  match s.link.state with
  | .broadcasting => afterWork s
  | .off | .idle | .sending | .waiting | .receiving | .fault | .stopping => s

/-- BROADCAST_END (R85). -/
def execBroadcastEnd (s : State) : Host.Outcome State Fault Refusal := .next (whileRunning broadcastEnd s)

/-! ## Faults -/

/-- The level a pin has with a cause of a fault. -/
def faultPins (c : FaultCause) (s : State) : State :=
  match c with
  | .lfltnLow => { s with pins := { s.pins with lfltn := .low } }
  | .echo _ rxd => { s with pins := { s.pins with rxd := rxd } }

/-- The cause is a fault of the line in a state with supervision: LFLTN low always, a sample of the echo where it is an
echo mismatch (R69, R78). -/
def State.watches (s : State) (c : FaultCause) : Bool :=
  match c with
  | .lfltnLow => true
  | .echo bit rxd => s.echoMismatch bit rxd

/-- The cause breaks the quiet of the line: LFLTN or RXD is low (R80). -/
def breaksQuiet (c : FaultCause) : Bool :=
  match c with
  | .lfltnLow => true
  | .echo _ rxd => decide (rxd = .low)

/-- Evidence of a line fault (R78): nothing in OFF; in FAULT, where no echo is compared, the quiet time restarts if the
line is not quiet (R80); elsewhere the fault is taken. -/
def lineFault (c : FaultCause) (s : State) : State :=
  match s.link.state with
  | .off => s
  | .fault => if breaksQuiet c then s.setLink { s.link with quiet := 0 } else s
  | .idle | .sending | .waiting | .receiving | .broadcasting | .stopping => if s.watches c then takeFault s else s

/-- LINE_FAULT (R78). -/
def execLineFault (c : FaultCause) (s : State) : Host.Outcome State Fault Refusal :=
  .next (whileRunning (fun s => lineFault c (faultPins c s)) s)

/-- Where the engine goes from FAULT when the line is restored (R79, R80). -/
def leaveFault (s : State) : State :=
  if s.link.current.isSome then startExchange s
  else if s.link.heldBroadcast then enterBroadcasting s
  else afterWork s

/-- The line is restored when the quiet-time count has reached 10 (R80). -/
def lineRestored (s : State) : State :=
  match s.link.state with
  | .fault =>
    if Config.quietGoal ≤ s.link.quiet then leaveFault (post .lineRestored 0 0 s) else s
  | .off | .idle | .sending | .waiting | .receiving | .broadcasting | .stopping => s

/-- LINE_RESTORED (R80). -/
def execLineRestored (s : State) : Host.Outcome State Fault Refusal := .next (whileRunning lineRestored s)

/-- The pin that goes low with a break of the quiet. -/
def breakPins (c : QuietBreak) (s : State) : State :=
  match c with
  | .lfltnLow => { s with pins := { s.pins with lfltn := .low } }
  | .rxdLow => { s with pins := { s.pins with rxd := .low } }

/-- In FAULT, LFLTN low or RXD going low sets the quiet-time count back to 0 (R80). -/
def quietTimeRestart (c : QuietBreak) (s : State) : State :=
  match s.link.state with
  | .fault => breakPins c (s.setLink { s.link with quiet := 0 })
  | .off | .idle | .sending | .waiting | .receiving | .broadcasting | .stopping => s

/-- QUIET_TIME_RESTART (R80). -/
def execQuietTimeRestart (c : QuietBreak) (s : State) : Host.Outcome State Fault Refusal :=
  .next (whileRunning (quietTimeRestart c) s)

end Sys2Proof.Machine
end

