-- ==== Sys2Proof/Machine/Actions.lean ====
section
/-! DEFINITION. The actions of Table 8-6: each a write of its code to ACT that completes within the write and leaves
its result in ARES (R183 to R187), and the write of a code outside the table (R184). -/

namespace Sys2Proof.Machine

/-- A write to ACT: the action acts, ARES takes its result and ACT the code written (R183). -/
def runAction (code : Byte) (f : State → State × ActionResult) (s : State) : State :=
  let r := f s
  { r.1 with win := { r.1.win with act := code, ares := r.2 } }

/-- An input pin's level as an event brings it (log 5). -/
def recordLfltn (l : Level) (s : State) : State := { s with pins := { s.pins with lfltn := l } }

/-! ## The link actions -/

/-- ENABLE_LINK with LFLTN at a level (R38, R82, R186). -/
def enableLink (lfltn : Level) (s : State) : State × ActionResult :=
  match s.link.state with
  | .off =>
    if s.px.valid then
      match lfltn with
      | .high => (enterIdle s, .done)
      | .low => (takeFault s, .done)
    else (s, .badLocalPages)
  | .idle | .sending | .waiting | .receiving | .broadcasting | .fault | .stopping => (s, .wrongState)

/-- ENABLE_LINK (R82). -/
def execEnableLink (lfltn : Level) (s : State) : Host.Outcome State Fault Refusal :=
  .next (whileRunning (fun s => runAction 0x01 (enableLink lfltn) (recordLfltn lfltn s)) s)

/-- DISABLE_LINK (R83). -/
def disableLink (s : State) : State × ActionResult :=
  match s.link.state with
  | .off => (s, .linkOff)
  | .idle => (enterOff s, .done)
  | .sending | .waiting | .receiving =>
    (s.setLink { s.link with stopPending := true, state := .stopping }, .done)
  | .stopping => (s, .done)
  | .broadcasting => (s.setLink { s.link with stopPending := true }, .done)
  | .fault =>
    if s.link.current.isSome || s.link.heldBroadcast || s.link.restartPending then
      (s.setLink { s.link with stopPending := true }, .done)
    else (enterOff s, .done)

/-- DISABLE_LINK (R83). -/
def execDisableLink (s : State) : Host.Outcome State Fault Refusal :=
  .next (whileRunning (runAction 0x02 disableLink) s)

/-- RESTART_LINK (R33, R84). -/
def restartLink (s : State) : State × ActionResult :=
  match s.link.state with
  | .off => (s, .linkOff)
  | .idle => (beginRestart s, .done)
  | .sending | .waiting | .receiving | .broadcasting | .fault | .stopping =>
    (s.setLink { s.link with restartPending := true }, .done)

/-- RESTART_LINK (R84). -/
def execRestartLink (s : State) : Host.Outcome State Fault Refusal :=
  .next (whileRunning (runAction 0x03 restartLink) s)

/-! ## The command actions -/

/-- SUBMIT (R109). -/
def submit (s : State) : State × ActionResult :=
  match s.checkStaged with
  | .error r => (s, r)
  | .ok target => (acceptCommand (s.win.staging.command target) s, .accepted)

/-- SUBMIT (R109). -/
def execSubmit (s : State) : Host.Outcome State Fault Refusal :=
  .next (whileRunning (runAction 0x10 submit) s)

/-- CANCEL of the tag in ARG0 (R128, R129). -/
def cancel (s : State) : State × ActionResult := cancelFound (s.findTag s.win.args[0]) s

/-- CANCEL (R129). -/
def execCancel (s : State) : Host.Outcome State Fault Refusal :=
  .next (whileRunning (runAction 0x11 cancel) s)

/-- POP_COMPLETION (R131). -/
def popCompletion (s : State) : State × ActionResult :=
  match s.ce.completions with
  | [] => (s, .empty)
  | _ :: rest => (flushSettled { s with ce := { s.ce with completions := rest } }, .done)

/-- POP_COMPLETION (R131). -/
def execPopCompletion (s : State) : Host.Outcome State Fault Refusal :=
  .next (whileRunning (runAction 0x12 popCompletion) s)

/-! ## The message and notice actions -/

/-- The verdict and reason the arguments of VERDICT give, if they are in range (R155 row 1); ACCEPT carries reason 0. -/
def verdictArgs (code reason : Byte) : Option (VerdictCode × Byte) :=
  match verdictOfByte code with
  | none => none
  | some .accept => some (.accept, 0)
  | some .reject => if reason = 0 ∨ 0xF0 ≤ reason.toNat then none else some (.reject, reason)

/-- The result for a handle that holds an entry decided by `d` (R155 rows 4 and 5). -/
def DecidedBy.result (d : DecidedBy) : ActionResult :=
  match d with
  | .timeout => .tooLate
  | .software => .alreadyDecided

/-- The result for a free handle with an end-cause (R155 rows 4 to 7). -/
def EndCause.result (c : EndCause) : ActionResult :=
  match c with
  | .timeout => .tooLate
  | .software => .alreadyDecided
  | .gone => .gone
  | .none => .noEntry

/-- The rows of Table 6-3 after the first, for a handle and a verdict in range (R155). -/
def judgeVerdict (h : Handle) (generation : Byte) (v : VerdictCode × Byte) (s : State) : State × ActionResult :=
  if generation ≠ s.mu.handles[h.val].generation.setWidth 8 then (s, .noEntry)
  else
    match s.deferredAt h with
    | none => (s, s.mu.handles[h.val].endCause.result)
    | some d =>
      match d.decision with
      | some dec => (s, dec.decidedBy.result)
      | none => (decideEntry d ⟨v.1, v.2, .software⟩ s, .taken)

/-- VERDICT (R155, R156). -/
def verdict (s : State) : State × ActionResult :=
  match verdictArgs s.win.args[2] s.win.args[3] with
  | none => (s, .badReason)
  | some v =>
    match handleOfByte s.win.args[0] with
    | none => (s, .noEntry)
    | some h => judgeVerdict h s.win.args[1] v s

/-- VERDICT, the action (R155). -/
def execVerdict (s : State) : Host.Outcome State Fault Refusal :=
  .next (whileRunning (runAction 0x20 verdict) s)

/-- POP_NOTICE (R165, R167). -/
def popNotice (s : State) : State × ActionResult :=
  match s.nq.notices with
  | [] => (s, .empty)
  | _ :: rest =>
    if s.nq.lost = 0 then ({ s with nq := { s.nq with notices := rest } }, .done)
    else
      ({ s with nq :=
        { s.nq with
          notices := rest ++ [⟨.noticesLost, 0, byteOfNat s.nq.lost, s.sched.mscount⟩]
          lost := 0 } }, .done)

/-- POP_NOTICE (R167). -/
def execPopNotice (s : State) : Host.Outcome State Fault Refusal :=
  .next (whileRunning (runAction 0x21 popNotice) s)

/-! ## The slot actions -/

/-- A slot action on the slot in ARG0, with BAD_SLOT before any other check (section 1.8, R187). -/
def onSlot (f : Slot → State → State × ActionResult) (s : State) : State × ActionResult :=
  match slotOfByte s.win.args[0] with
  | none => (s, .badSlot)
  | some i => f i s

/-- Make a release owed to a slot (R10). -/
def oweRelease (i : Slot) (s : State) : State := s.updEntry i fun e => { e with releaseOwed := true }

/-- Clear a slot's census enable (R30). -/
def clearCensus (i : Slot) (s : State) : State := s.updEntry i fun e => { e with censusEnable := false }

/-- DETACH of a slot (R29, R30). -/
def detachSlot (i : Slot) (s : State) : State × ActionResult :=
  match (s.entry i).state with
  | .vacant => (s, .alreadyVacant)
  | .lost => (clearCensus i (enterVacant i .detached s), .done)
  | .negotiating _ | .active _ | .failed _ => (oweRelease i (clearCensus i (enterVacant i .detached s)), .done)

/-- DETACH (R30). -/
def execDetach (s : State) : Host.Outcome State Fault Refusal :=
  .next (whileRunning (runAction 0x30 (onSlot detachSlot)) s)

/-- RELEASE of a slot (R29, R31). The entry is not ACTIVE, so no command ends. -/
def releaseSlot (i : Slot) (s : State) : State × ActionResult :=
  match (s.entry i).state with
  | .failed _ => (oweRelease i (enterVacant i .detached s), .done)
  | .lost => (enterVacant i .detached s, .done)
  | .vacant | .negotiating _ | .active _ => (s, .wrongState)

/-- RELEASE, the action (R31). -/
def execRelease (s : State) : Host.Outcome State Fault Refusal :=
  .next (whileRunning (runAction 0x31 (onSlot releaseSlot)) s)

/-- RENEGOTIATE of a slot, with cause 2 (R29, R32). -/
def renegotiateSlot (i : Slot) (s : State) : State × ActionResult :=
  match (s.entry i).state with
  | .active _ => (renegotiate i 2 s, .done)
  | .vacant | .negotiating _ | .failed _ | .lost => (s, .wrongState)

/-- RENEGOTIATE (R32). -/
def execRenegotiate (s : State) : Host.Outcome State Fault Refusal :=
  .next (whileRunning (runAction 0x32 (onSlot renegotiateSlot)) s)

/-! ## Any write to ACT -/

/-- A code outside Table 8-6 (R184). -/
def unknownAction (s : State) : State × ActionResult := (s, .unknownAction)

/-- The action a code starts (Table 8-6); `lfltn` is the level ENABLE_LINK finds. -/
def actionOf (code : Byte) (lfltn : Level) (s : State) : State × ActionResult :=
  match code.toNat with
  | 0x01 => enableLink lfltn s
  | 0x02 => disableLink s
  | 0x03 => restartLink s
  | 0x10 => submit s
  | 0x11 => cancel s
  | 0x12 => popCompletion s
  | 0x20 => verdict s
  | 0x21 => popNotice s
  | 0x30 => onSlot detachSlot s
  | 0x31 => onSlot releaseSlot s
  | 0x32 => onSlot renegotiateSlot s
  | _ => unknownAction s

/-- A write of any code to ACT (R183, R184). -/
def writeAct (code : Byte) (s : State) : State := runAction code (actionOf code s.pins.lfltn) s

/-- UNKNOWN_ACTION: a write to ACT of a code outside Table 8-6 (R184). A code of the table starts its action (log 16). -/
def execUnknownAction (code : Byte) (s : State) : Host.Outcome State Fault Refusal :=
  .next (whileRunning (writeAct code) s)

end Sys2Proof.Machine
end

