-- ==== Sys2Proof/Machine/Records.lean ====
section
/-! DEFINITION. The records and areas of the register window as bytes (Tables 8-2, 8-3, 10-4, 10-5, 10-6), the
snapshot copies, the reads of WDAT, and the plain reads of the registers. -/

namespace Sys2Proof.Machine

/-! ## MODULE (Table 10-4) -/

/-- Presence byte at offset 1. -/
def Entry.presence1 (e : Entry) : Byte :=
  BitVec.ofBool e.lastVerdict.isSome ++ BitVec.ofBool e.lastNumber.isSome ++ BitVec.ofBool e.status.isSome ++
    BitVec.ofBool e.isActive ++
    BitVec.ofBool (match e.state with
      | .failed _ => true
      | .vacant | .negotiating _ | .active _ | .lost => false) ++
    BitVec.ofBool e.isNegotiating ++ BitVec.ofBool e.basePage.isSome ++ BitVec.ofBool e.cls.isSome

/-- Presence byte at offset 2. -/
def Entry.presence2 (e : Entry) : Byte :=
  0#4 ++ BitVec.ofBool e.record.isSome ++ BitVec.ofBool e.outstanding?.isSome ++
    BitVec.ofBool (e.verdictOwed.any fun v => v.renegotiation) ++ BitVec.ofBool e.verdictOwed.isSome

/-- A status record, offsets 22..28. -/
def StatusRecord.bytes (r : StatusRecord) : List Byte :=
  [r.state, r.alarm, r.pending.setWidth 8, r.r0, r.r1, r.r2, r.r3]

/-- A verdict in three bytes (offsets 30..32 and 33..35). -/
def Verdict.bytes (v : Verdict) : List Byte := [v.number.setWidth 8, v.code.code, v.reason]

/-- The context flags at offset 39. -/
def Context.flags (c : Context) : Byte :=
  let ack := c.ack.getD ⟨false, false⟩
  BitVec.ofBool c.ack.isSome ++ BitVec.ofBool ack.comply ++ BitVec.ofBool ack.toggle ++ BitVec.ofBool c.finalSeen ++
    BitVec.ofBool c.moduleToggle.isSome ++ BitVec.ofBool (c.moduleToggle.getD false) ++
    BitVec.ofBool c.localToggle ++ BitVec.ofBool c.localDone

/-- A context, offsets 36..42. -/
def Context.bytes (c : Context) : List Byte :=
  [match c.phase with
    | .exchange => 0
    | .settle _ => 1,
   byteOfNat c.steps, byteOfNat c.localIndex, c.flags, byteOfNat c.argsLeft, byteOfBool c.fresh,
   match c.phase with
    | .exchange => 0
    | .settle p => profileByte p]

/-- An outstanding command, offsets 43..72. -/
def Outstanding.bytes (o : Outstanding) : List Byte :=
  let left : BitVec 16 := BitVec.ofNat 16 (o.held.remaining.getD 0)
  [o.held.cmd.tag, o.held.cmd.code, byteOfNat o.held.cmd.payload.length, lowByte left, highByte left,
    byteOfBool o.seq] ++ padded 24 o.held.cmd.payload

/-- An optional field of n bytes, which reads 0 in every byte when absent (R192). -/
def optional (n : Nat) (l : Option (List Byte)) : List Byte := padded n (l.getD [])

/-- The MODULE record of an entry, 96 bytes (Table 10-4). -/
def Entry.bytes (e : Entry) : List Byte :=
  [e.state.code, e.presence1, e.presence2, byteOfBool e.censusEnable, e.pollPeriod, byteOfBool e.releaseOwed,
    (e.cls.getD 0).setWidth 8] ++
  optional 3 (e.basePage.map fun b => [b.b0, b.b1, b.b2]) ++
  [byteOfNat e.pages.length] ++
  optional 2 (e.record.map fun r => [r.dropped, r.comply]) ++
  [match e.state with
    | .failed f => f.code
    | .vacant | .negotiating _ | .active _ | .lost => 0] ++
  optional 4 (e.active?.map fun d => [profileByte d.profile, lowByte d.nextDue, highByte d.nextDue, d.standing.code]) ++
  [byteOfNat e.missCount, byteOfBool e.fetchWanted, e.hold, byteOfBool e.seqBit] ++
  optional 7 (e.status.map StatusRecord.bytes) ++
  optional 1 (e.lastNumber.map fun n => [n.setWidth 8]) ++
  optional 3 (e.lastVerdict.map Verdict.bytes) ++
  optional 3 (e.verdictOwed.map fun v => v.verdict.bytes) ++
  optional 7 (e.context?.map Context.bytes) ++
  optional 30 (e.outstanding?.map Outstanding.bytes) ++
  optional 2 (e.active?.map fun d => [d.period, d.alarmBaseline]) ++
  List.replicate 21 0

/-! ## LOCALPAGE and PAGES (Table 10-5) -/

/-- A LOCALPAGE entry, 6 bytes. -/
def LocalPage.bytes (p : LocalPage) : List Byte :=
  p.kind.code.setWidth 8 :: p.body.bytes ++ [byteOfBool p.required]

/-- A PAGES record, 6 bytes. -/
def RxPage.bytes (p : RxPage) : List Byte := p.kind.code.setWidth 8 :: p.body.bytes ++ [byteOfBool p.comply]

/-! ## STAGING, COMPLETION, NOTICE and DEFERRED (Table 10-6) -/

/-- The STAGING area, 30 bytes. -/
def Staging.bytes (g : Staging) : List Byte :=
  [g.target, g.code, g.tag, g.length, lowByte g.deadline, highByte g.deadline] ++ g.payload.toList

/-- A COMPLETION record, 30 bytes. -/
def Completion.bytes (c : Completion) : List Byte :=
  [c.tag, slotByte c.target, c.code, c.status.code, c.detail, byteOfNat c.data.length] ++ padded 24 c.data

/-- A NOTICE record, 5 bytes. -/
def Notice.bytes (n : Notice) : List Byte :=
  [n.kind.code, n.slot, n.detail, lowByte n.timestamp, highByte n.timestamp]

/-- The DEFERRED record of a handle that holds an entry, 41 bytes; its end-cause reads NONE (R158). -/
def Deferred.bytes (d : Deferred) (generation : BitVec 4) : List Byte :=
  let age : BitVec 16 := BitVec.ofNat 16 d.age
  [handleByte d.handle, generation.setWidth 8] ++
  (match d.decision with
    | none => [1, 0]
    | some _ => [2, 0]) ++
  [slotByte d.slot, d.cls, d.number.setWidth 8, byteOfNat d.data.length] ++
  (match d.decision with
    | none => [0, 0, 0]
    | some x => [x.code.code, x.reason, x.decidedBy.code]) ++
  [lowByte age, highByte age] ++ padded 28 d.data

/-- The DEFERRED record of a free handle: its generation and end-cause, every other byte 0 (R158, R193). -/
def HandleRecord.freeBytes (h : HandleRecord) : List Byte :=
  [0, h.generation.setWidth 8, 0, h.endCause.code] ++ List.replicate 37 0

/-- The DEFERRED record of a handle. -/
def State.deferredBytes (s : State) (h : Handle) : List Byte :=
  match s.deferredAt h with
  | some d => d.bytes s.mu.handles[h.val].generation
  | none => s.mu.handles[h.val].freeBytes

/-- The PARAMS area, 6 bytes (Table 8-3). -/
def State.paramBytes (s : State) : List Byte :=
  [s.link.replyWindow, s.link.retryLimit, s.sched.missLimit, s.sched.censusInterval, s.mu.timeout, byteOfNat s.px.count]

/-! ## Snapshot copies (R179) -/

/-- The copy of the record that an area and an index select; empty, which reads 0 throughout, where the index selects
no record or the area takes no copy. -/
def State.copyOf (s : State) (area : Area) (index : Byte) : List Byte :=
  match area with
  | .module =>
    match slotOfByte index with
    | none => []
    | some i => (s.entry i).bytes
  | .pages =>
    match slotOfByte index with
    | none => []
    | some i => (s.entry i).pages.flatMap RxPage.bytes
  | .deferred =>
    match handleOfByte index with
    | none => []
    | some h => s.deferredBytes h
  | .localPage | .accept | .classFilter | .staging | .completion | .notice | .params => []

/-- The area is a snapshot area (Table 8-2). -/
def Area.isSnapshot (a : Area) : Bool :=
  match a with
  | .module | .pages | .deferred => true
  | .localPage | .accept | .classFilter | .staging | .completion | .notice | .params => false

/-! ## Reads -/

/-- The byte WDAT reaches at the window offset of the selected area and record (R178, R180). -/
def State.windowByte (s : State) : Byte :=
  match s.win.area with
  | .module | .pages | .deferred => s.win.snapshot.getD s.win.offset 0
  | .localPage =>
    match s.px.pages[s.win.widx.toNat]? with
    | none => 0
    | some p => p.bytes.getD s.win.offset 0
  | .accept => byteOfBool (s.px.accept.getLsbD s.win.offset)
  | .classFilter => s.px.filter.toList.getD s.win.offset 0
  | .staging => s.win.staging.bytes.getD s.win.offset 0
  | .completion =>
    match s.ce.completions with
    | [] => 0
    | c :: _ => c.bytes.getD s.win.offset 0
  | .notice =>
    match s.nq.notices with
    | [] => 0
    | n :: _ => n.bytes.getD s.win.offset 0
  | .params => s.paramBytes.getD s.win.offset 0

/-- The byte a read of an address returns (R172 to R177, Table 8-1). The reads of WDAT and of the MSCOUNT low byte
return it and have an effect besides, which their own commands give; every other read has no effect. -/
def State.readRegister (s : State) (address : BitVec 6) : Byte :=
  match s.pins.resetn with
  | .low => 0
  | .high =>
    match address.toNat with
    | 0x00 => s.link.rate.setWidth 8
    | 0x01 => s.lsta
    | 0x02 => s.win.ien.setWidth 8
    | 0x03 => s.sources.setWidth 8
    | 0x04 => s.win.act
    | 0x05 => s.win.ares.code
    | 0x06 => s.win.args[0]
    | 0x07 => s.win.args[1]
    | 0x08 => s.win.args[2]
    | 0x09 => s.win.args[3]
    | 0x0A => s.win.area.code
    | 0x0B => s.win.widx
    | 0x0C => byteOfNat s.win.offset
    | 0x0D => s.windowByte
    | 0x0E => byteOfNat s.ce.queue.length
    | 0x0F => byteOfNat s.ce.completions.length
    | 0x10 => byteOfNat s.nq.notices.length
    | 0x11 => byteOfNat s.mu.queue.length
    | 0x12 => s.oldestOpen
    | 0x13 => byteOfNat s.poolFree
    | 0x14 => lowByte s.sched.mscount
    | 0x15 => s.sched.holding
    | _ => 0

end Sys2Proof.Machine
end

