-- ==== Sys2Proof/Machine/Resets.lean ====
section
/-! DEFINITION. The pin reset, its end, and the soft reset (R11, R86, R87, R133, R160, R168, R188, R189). -/

namespace Sys2Proof.Machine

/-! ## Soft reset: each block's dynamic state, with its configuration kept -/

/-- An entry after a soft reset: VACANT directly, census enable and poll period kept (R11). -/
def Entry.softReset (e : Entry) : Entry :=
  { Entry.reset with censusEnable := e.censusEnable, pollPeriod := e.pollPeriod }

/-- The register window after a soft reset: IEN kept (Table 8-8). -/
def Window.softReset (w : Window) : Window := { Window.reset with ien := w.ien }

/-- The link engine after a soft reset: rate code, reply window and retry limit kept (R86). -/
def LinkEngine.softReset (l : LinkEngine) : LinkEngine :=
  { LinkEngine.reset with rate := l.rate, replyWindow := l.replyWindow, retryLimit := l.retryLimit }

/-- The call scheduler after a soft reset: census interval and miss limit kept (Table 4-2). -/
def Scheduler.softReset (c : Scheduler) : Scheduler :=
  { Scheduler.reset with censusInterval := c.censusInterval, missLimit := c.missLimit }

/-- The message unit after a soft reset: verdict timeout kept (R160). -/
def MessageUnit.softReset (m : MessageUnit) : MessageUnit := { MessageUnit.reset with timeout := m.timeout }

/-- The soft reset of every block (R188); the page exchange unit's stores are kept (R37, R40, R41). -/
def softReset (s : State) : State :=
  { s with
    win := s.win.softReset
    table := s.table.map Entry.softReset
    link := s.link.softReset
    sched := s.sched.softReset
    ce := CommandEngine.reset
    mu := s.mu.softReset
    nq := NoticeQueue.reset }

/-- SOFT_RESET: a write to LCTL with bit 7 set; the other bits are not applied (R174, R188). -/
def execSoftReset (_low : BitVec 7) (s : State) : Host.Outcome State Fault Refusal :=
  .next (whileRunning softReset s)

/-! ## Pin reset -/

/-- PIN_RESET: RESETN is low and every item is at its pin-reset value; the other input pins keep their levels and the
commands that wait are not part of the controller (R86, log 6). -/
def pinReset (s : State) : State :=
  { State.reset with
    pins := { s.pins with resetn := .low, readData := 0 }
    pending := s.pending }

/-- PIN_RESET (R86). -/
def execPinReset (s : State) : Host.Outcome State Fault Refusal := .next (pinReset s)

/-- PIN_RESET_END: RESETN is high, the window takes accesses and ticks are produced again (R87). -/
def execPinResetEnd (s : State) : Host.Outcome State Fault Refusal :=
  .next { s with pins := { s.pins with resetn := .high } }

end Sys2Proof.Machine
end

