-- ==== Sys2Proof/Machine/Registers.lean ====
section
/-! DEFINITION. The writes to the registers and the accesses to the data port (R65, R88, R170, R173 to R182). -/

namespace Sys2Proof.Machine

/-! ## LCTL, LSTA, IEN -/

/-- A write to LCTL with bit 7 clear (R65, R174): code 3 is refused, the code held is taken without effect, and
another code is taken in OFF and refused elsewhere. -/
def writeRate (code : BitVec 2) (s : State) : State :=
  if code = 3 then refuseAccess s
  else if code = s.link.rate then s
  else
    match s.link.state with
    | .off => s.setLink { s.link with rate := code }
    | .idle | .sending | .waiting | .receiving | .broadcasting | .fault | .stopping => refuseAccess s

/-- RATE_CODE_WRITE: bits 1..0 give the code, bits 6..2 are ignored (R174). -/
def execRateCodeWrite (low : BitVec 7) (s : State) : Host.Outcome State Fault Refusal :=
  .next (whileRunning (writeRate (low.extractLsb' 0 2)) s)

/-- A write to LSTA with bit 7 set clears the access-refused flag (R175). -/
def clearRefused (s : State) : State := { s with win := { s.win with refused := false } }

/-- ACCESS_REFUSED_CLEAR: the other bits of the byte are ignored (R175). -/
def execAccessRefusedClear (_low : BitVec 7) (s : State) : Host.Outcome State Fault Refusal :=
  .next (whileRunning clearRefused s)

/-- A write to IEN sets the four enables from bits 3..0 (R170, R176). -/
def writeIen (value : Byte) (s : State) : State := { s with win := { s.win with ien := value.extractLsb' 0 4 } }

/-- IEN_WRITE (R170). -/
def execIenWrite (value : Byte) (s : State) : Host.Outcome State Fault Refusal :=
  .next (whileRunning (writeIen value) s)

/-! ## WSEL, WIDX, WOFF -/

/-- Take the copy that the selected area and index give, if the area is a snapshot area (R179). -/
def takeCopy (s : State) : State :=
  if s.win.area.isSnapshot then { s with win := { s.win with snapshot := s.copyOf s.win.area s.win.widx } } else s

/-- A write to WSEL (R177). -/
def writeWsel (value : Byte) (s : State) : State :=
  match areaOfByte value with
  | none => refuseAccess s
  | some a => takeCopy { s with win := { s.win with area := a, offset := 0 } }

/-- WSEL_WRITE (R177). -/
def execWselWrite (value : Byte) (s : State) : Host.Outcome State Fault Refusal :=
  .next (whileRunning (writeWsel value) s)

/-- A write to WIDX (R177). -/
def writeWidx (value : Byte) (s : State) : State :=
  takeCopy { s with win := { s.win with widx := value, offset := 0 } }

/-- WIDX_WRITE (R177). -/
def execWidxWrite (value : Byte) (s : State) : Host.Outcome State Fault Refusal :=
  .next (whileRunning (writeWidx value) s)

/-- A write to WOFF (R177). -/
def writeWoff (value : Byte) (s : State) : State := { s with win := { s.win with offset := value.toNat } }

/-- WOFF_WRITE (R177). -/
def execWoffWrite (value : Byte) (s : State) : Host.Outcome State Fault Refusal :=
  .next (whileRunning (writeWoff value) s)

/-! ## WDAT -/

/-- The step of the window offset after every WDAT access (R178). -/
def stepOffset (s : State) : State :=
  { s with win := { s.win with offset := min (s.win.offset + 1) Config.lastOffset } }

/-- WDAT_READ: the byte at the offset is driven and the offset steps on (R178). While RESETN is low the read returns 0
(R172). -/
def execWdatRead (s : State) : Host.Outcome State Fault Refusal :=
  match s.pins.resetn with
  | .low => .next (driveData 0 s)
  | .high => .next (stepOffset (driveData s.windowByte s))

/-- A write to the MODULE area: poll period and census enable of slot WIDX, in the entry and in the copy (R182). -/
def writeModule (value : Byte) (s : State) : Option State :=
  match slotOfByte s.win.widx with
  | none => none
  | some i =>
    let copied := { s with win := { s.win with snapshot := s.win.snapshot.set s.win.offset value } }
    match s.win.offset with
    | 3 =>
      if value.toNat ≤ 1 then some (copied.updEntry i fun e => { e with censusEnable := value == 1 }) else none
    | 4 => if value = 0 then none else some (copied.updEntry i fun e => { e with pollPeriod := value })
    | _ => none

/-- A local page entry with the byte at an offset of its record written, if the value is defined (R37, Table 10-5). -/
def LocalPage.setByte (p : LocalPage) (offset : Nat) (value : Byte) : Option LocalPage :=
  match offset with
  | 0 => (pageKindOfByte value).map fun k => { p with kind := k }
  | 5 => if value.toNat ≤ 1 then some { p with required := value == 1 } else none
  | _ => if offset < 5 then some { p with body := p.body.setByte (offset - 1) value } else none

/-- A write to the LOCALPAGE area, taken in OFF (R37). -/
def writeLocalPage (value : Byte) (s : State) : Option State :=
  if h : s.link.state = .off ∧ s.win.widx.toNat < 8 then
    ((s.px.pages[s.win.widx.toNat]'h.2).setByte s.win.offset value).map fun p =>
      { s with px := { s.px with pages := s.px.pages.set s.win.widx.toNat p h.2 } }
  else none

/-- The acceptance set with the flag of a code set (R40). -/
def setAccept (accept : BitVec 256) (code : Nat) (b : Bool) : BitVec 256 :=
  if b then accept ||| (1#256 <<< code) else accept &&& ~~~(1#256 <<< code)

/-- A write to the ACCEPT area (R40). -/
def writeAccept (value : Byte) (s : State) : Option State :=
  if s.win.offset < 256 ∧ value.toNat ≤ 1 then
    some { s with px := { s.px with accept := setAccept s.px.accept s.win.offset (value == 1) } }
  else none

/-- A write to the CLASSFILTER area (R41). -/
def writeFilter (value : Byte) (s : State) : Option State :=
  if h : s.win.offset < 16 then
    some { s with px := { s.px with filter := s.px.filter.set s.win.offset value h } }
  else none

/-- The staging area with the byte at an offset written (R108, Table 10-6). -/
def Staging.setByte (g : Staging) (offset : Nat) (value : Byte) : Option Staging :=
  match offset with
  | 0 => some { g with target := value }
  | 1 => some { g with code := value }
  | 2 => some { g with tag := value }
  | 3 => some { g with length := value }
  | 4 => some { g with deadline := highByte g.deadline ++ value }
  | 5 => some { g with deadline := value ++ lowByte g.deadline }
  | k + 6 => if h : k < 24 then some { g with payload := g.payload.set k value h } else none

/-- A write to the STAGING area (R108). -/
def writeStaging (value : Byte) (s : State) : Option State :=
  (s.win.staging.setByte s.win.offset value).map fun g => { s with win := { s.win with staging := g } }

/-- A write to the PARAMS area (Table 8-3). -/
def writeParam (value : Byte) (s : State) : Option State :=
  match s.win.offset with
  | 0 => if 5 ≤ value.toNat then some (s.setLink { s.link with replyWindow := value }) else none
  | 1 => if value.toNat ≤ 7 then some (s.setLink { s.link with retryLimit := value }) else none
  | 2 =>
    if 1 ≤ value.toNat ∧ value.toNat ≤ 15 then some { s with sched := { s.sched with missLimit := value } } else none
  | 3 => if 1 ≤ value.toNat then some { s with sched := { s.sched with censusInterval := value } } else none
  | 4 => if 1 ≤ value.toNat then some { s with mu := { s.mu with timeout := value } } else none
  | 5 =>
    if s.link.state = .off ∧ value.toNat ≤ 8 then some { s with px := { s.px with count := value.toNat } } else none
  | _ => none

/-- The state after a write of WDAT that is taken, or none where it is refused (R181, Table 8-4). -/
def writeArea (value : Byte) (s : State) : Option State :=
  match s.win.area with
  | .module => writeModule value s
  | .localPage => writeLocalPage value s
  | .accept => writeAccept value s
  | .classFilter => writeFilter value s
  | .staging => writeStaging value s
  | .params => writeParam value s
  | .pages | .completion | .notice | .deferred => none

/-- A write of WDAT: taken or refused, and the offset steps on in either case (R178, R181). -/
def writeWdat (value : Byte) (s : State) : State := stepOffset ((writeArea value s).getD (refuseAccess s))

/-- WDAT_WRITE (R181). -/
def execWdatWrite (value : Byte) (s : State) : Host.Outcome State Fault Refusal :=
  .next (whileRunning (writeWdat value) s)

/-! ## The MSCOUNT low byte, and writes without a row of their own -/

/-- MSCOUNT_LOW_READ: the low byte is driven and the high byte copied into the holding byte (R88). While RESETN is low
the read returns 0 (R172). -/
def execMscountLowRead (s : State) : Host.Outcome State Fault Refusal :=
  match s.pins.resetn with
  | .low => .next (driveData 0 s)
  | .high =>
    .next (driveData (lowByte s.sched.mscount)
      { s with sched := { s.sched with holding := highByte s.sched.mscount } })

/-- A write to ARG0 to ARG3 (R183, Table 8-1). -/
def writeArg (k : Fin 4) (value : Byte) (s : State) : State :=
  { s with win := { s.win with args := s.win.args.set k.val value } }

/-- A write of a byte to an address of the register window (Table 8-1): the read-only registers and the unused
addresses ignore it, and it never sets the access-refused flag by itself (R88, R169, R173). -/
def writeRegister (address : BitVec 6) (value : Byte) (s : State) : State :=
  match address.toNat with
  | 0x00 => if value.msb then softReset s else writeRate (value.extractLsb' 0 2) s
  | 0x01 => if value.msb then clearRefused s else s
  | 0x02 => writeIen value s
  | 0x04 => writeAct value s
  | 0x06 => writeArg 0 value s
  | 0x07 => writeArg 1 value s
  | 0x08 => writeArg 2 value s
  | 0x09 => writeArg 3 value s
  | 0x0A => writeWsel value s
  | 0x0B => writeWidx value s
  | 0x0C => writeWoff value s
  | 0x0D => writeWdat value s
  | _ => s

/-- REGISTER_WRITE: a write to a register with no row of its own (R173). At an address that has a row it does what that
register's rule says (log 16). -/
def execRegisterWrite (address : BitVec 6) (value : Byte) (s : State) : Host.Outcome State Fault Refusal :=
  .next (whileRunning (writeRegister address value) s)

end Sys2Proof.Machine
end

