-- ==== Sys2Proof/Machine/Time.lean ====
section
/-! DEFINITION. The 1 ms tick and the events its counts lead to (R8, R80, R87, R89, R99, R123, R124, R154). The tick
moves every count; what a count that has run out brings about is a command of its own (log 3). -/

namespace Sys2Proof.Machine

/-- An entry at a tick that makes MSCOUNT `now`: hold remaining (R8), the poll marks (R89) and the outstanding command's
deadline (R123). -/
def Entry.tick (now : BitVec 16) (e : Entry) : Entry :=
  let e := { e with hold := if e.hold = 0 then 0 else e.hold - 1 }
  e.updActive fun d => { d.tickPoll now with outstanding := d.outstanding.map Outstanding.tick }

/-- The scheduler at a tick: MSCOUNT and the census elapsed count (R87, R99). -/
def Scheduler.tick (c : Scheduler) : Scheduler :=
  { c with mscount := c.mscount + 1, censusElapsed := min (c.censusElapsed + 1) 255 }

/-- The quiet-time count at a tick, in FAULT (R80). -/
def LinkEngine.tick (lfltn rxd : Level) (l : LinkEngine) : LinkEngine :=
  match l.state with
  | .fault =>
    { l with quiet := if lfltn = .high ∧ rxd = .high then min (l.quiet + 1) Config.quietGoal else 0 }
  | .off | .idle | .sending | .waiting | .receiving | .broadcasting | .stopping => l

/-- The deadlines of queued and in-flight commands at a tick (R123). -/
def CommandEngine.tick (c : CommandEngine) : CommandEngine :=
  { c with queue := c.queue.map QueuedCommand.tick, inFlight := c.inFlight.map InFlight.tick }

/-- The ages of OPEN deferred entries at a tick (R154). -/
def MessageUnit.tick (m : MessageUnit) : MessageUnit := { m with queue := m.queue.map (Deferred.tick m.timeout) }

/-- The tick (R87), with LFLTN and RXD at the levels given. -/
def msTick (lfltn rxd : Level) (s : State) : State :=
  { s with
    pins := { s.pins with lfltn := lfltn, rxd := rxd }
    table := s.table.map (Entry.tick (s.sched.mscount + 1))
    link := s.link.tick lfltn rxd
    sched := s.sched.tick
    ce := s.ce.tick
    mu := s.mu.tick }

/-- MS_TICK: no tick is produced while RESETN is low (R87). -/
def execMsTick (lfltn rxd : Level) (s : State) : Host.Outcome State Fault Refusal :=
  .next (whileRunning (msTick lfltn rxd) s)

/-- POLL_DUE: the standing of a slot whose due time a tick has reached becomes DUE (R89). -/
def execPollDue (i : Slot) (s : State) : Host.Outcome State Fault Refusal :=
  .next (whileRunning (fun s => s.updEntry i (Entry.updActive ActiveData.takeDue)) s)

/-- POLL_OVERDUE: the standing of a slot whose period in force has passed since its due time becomes OVERDUE (R89). -/
def execPollOverdue (i : Slot) (s : State) : Host.Outcome State Fault Refusal :=
  .next (whileRunning (fun s => s.updEntry i (Entry.updActive ActiveData.takeOverdue)) s)

/-- CENSUS_INTERVAL_ELAPSED: the census class may have work from here on (R99); the scheduler reads the count itself, so
no state changes (log 19). -/
def execCensusIntervalElapsed (s : State) : Host.Outcome State Fault Refusal := .next s

/-- HOLD_END: the slot's queued commands are eligible from here on (R8, R112); the start conditions read hold remaining
itself, so no state changes (log 19). -/
def execHoldEnd (_i : Slot) (s : State) : Host.Outcome State Fault Refusal := .next s

/-- COMMAND_EXPIRY (R124). -/
def execCommandExpiry (s : State) : Host.Outcome State Fault Refusal := .next (whileRunning expireCommands s)

/-- VERDICT_TIMEOUT (R154). -/
def execVerdictTimeout (s : State) : Host.Outcome State Fault Refusal := .next (whileRunning timeOutAll s)

end Sys2Proof.Machine
end

