-- ==== Sys2Proof/Machine/Dispatch.lean ====
section
/-! DEFINITION. The dispatcher: one arm per command, each a direct call of its meaning. -/

namespace Sys2Proof.Machine

/-- A command's effect on everything but the queue of waiting commands. -/
def exec (i : Instr) (s : State) : Host.Outcome State Fault Refusal :=
  match i with
  | .enableLink lfltn => Sys2Proof.Machine.execEnableLink lfltn s
  | .disableLink => Sys2Proof.Machine.execDisableLink s
  | .restartLink => Sys2Proof.Machine.execRestartLink s
  | .submit => Sys2Proof.Machine.execSubmit s
  | .cancel => Sys2Proof.Machine.execCancel s
  | .popCompletion => Sys2Proof.Machine.execPopCompletion s
  | .verdict => Sys2Proof.Machine.execVerdict s
  | .popNotice => Sys2Proof.Machine.execPopNotice s
  | .detach => Sys2Proof.Machine.execDetach s
  | .release => Sys2Proof.Machine.execRelease s
  | .renegotiate => Sys2Proof.Machine.execRenegotiate s
  | .unknownAction code => Sys2Proof.Machine.execUnknownAction code s
  | .softReset low => Sys2Proof.Machine.execSoftReset low s
  | .rateCodeWrite low => Sys2Proof.Machine.execRateCodeWrite low s
  | .accessRefusedClear low => Sys2Proof.Machine.execAccessRefusedClear low s
  | .ienWrite value => Sys2Proof.Machine.execIenWrite value s
  | .wselWrite value => Sys2Proof.Machine.execWselWrite value s
  | .widxWrite value => Sys2Proof.Machine.execWidxWrite value s
  | .woffWrite value => Sys2Proof.Machine.execWoffWrite value s
  | .wdatRead => Sys2Proof.Machine.execWdatRead s
  | .wdatWrite value => Sys2Proof.Machine.execWdatWrite value s
  | .mscountLowRead => Sys2Proof.Machine.execMscountLowRead s
  | .registerWrite address value => Sys2Proof.Machine.execRegisterWrite address value s
  | .pinReset => Sys2Proof.Machine.execPinReset s
  | .lineFault cause => Sys2Proof.Machine.execLineFault cause s
  | .lineRestored => Sys2Proof.Machine.execLineRestored s
  | .msTick lfltn rxd => Sys2Proof.Machine.execMsTick lfltn rxd s
  | .pollDue slot => Sys2Proof.Machine.execPollDue slot s
  | .pollOverdue slot => Sys2Proof.Machine.execPollOverdue slot s
  | .censusIntervalElapsed => Sys2Proof.Machine.execCensusIntervalElapsed s
  | .holdEnd slot => Sys2Proof.Machine.execHoldEnd slot s
  | .commandExpiry => Sys2Proof.Machine.execCommandExpiry s
  | .verdictTimeout => Sys2Proof.Machine.execVerdictTimeout s
  | .callChoice => Sys2Proof.Machine.execCallChoice s
  | .callSent => Sys2Proof.Machine.execCallSent s
  | .replyWindowExpiry => Sys2Proof.Machine.execReplyWindowExpiry s
  | .retryGapEnd => Sys2Proof.Machine.execRetryGapEnd s
  | .replyFrameEnd first rest => Sys2Proof.Machine.execReplyFrameEnd first rest s
  | .receptionLimit => Sys2Proof.Machine.execReceptionLimit s
  | .broadcastEnd => Sys2Proof.Machine.execBroadcastEnd s
  | .replyStartBit => Sys2Proof.Machine.execReplyStartBit s
  | .quietTimeRestart cause => Sys2Proof.Machine.execQuietTimeRestart cause s
  | .pinResetEnd => Sys2Proof.Machine.execPinResetEnd s

end Sys2Proof.Machine
end

