-- ==== Sys2Proof/Safety.lean ====
section
/-! DEFINITION. What a safe run is, and the invariants that claims about runs may assume: each part says of a
reachable state what the rules promise of it. -/

namespace Sys2Proof.Machine

/-- A step from the state answers a next state: nothing faults and nothing is refused. -/
def SafeStep (s : State) : Prop := ∃ t, step s = .next t

/-- Every step of a run of n steps answers a next state. -/
def SafeRun (n : Nat) (s : State) : Prop :=
  match n with
  | 0 => True
  | k + 1 => ∃ t, step s = .next t ∧ SafeRun k t

/-- The notice queue holds at most 32 notices, the lost count stops at 255, and it is above 0 only while the queue is
full (R164). -/
def NoticesOk (s : State) : Prop :=
  s.nq.notices.length ≤ 32 ∧ s.nq.lost ≤ 255 ∧ (0 < s.nq.lost → s.nq.notices.length = 32)

/-- The command queue holds at most 16 commands (R110), and completion records, the in-flight command and outstanding
commands never number more than 16 (R114). -/
def CommandsOk (s : State) : Prop := s.ce.queue.length ≤ 16 ∧ s.reservation ≤ 16

/-- Every parameter is in its range (Table 8-3), the rate code is 0, 1 or 2 (R65), every poll period is 1..255 (R3), and
the window offset is at most 1023 (R177). -/
def ConfigOk (s : State) : Prop :=
  s.link.rate ≠ 3 ∧ 5 ≤ s.link.replyWindow.toNat ∧ s.link.retryLimit.toNat ≤ 7 ∧
    (1 ≤ s.sched.missLimit.toNat ∧ s.sched.missLimit.toNat ≤ 15) ∧ 1 ≤ s.sched.censusInterval.toNat ∧
    1 ≤ s.mu.timeout.toNat ∧ s.px.count ≤ 8 ∧ (∀ i : Slot, (s.entry i).pollPeriod ≠ 0) ∧ s.win.offset ≤ 1023

/-- The call on the link is one of a kind. -/
def State.callIs (s : State) (kind : CallKind) (i : Slot) : Prop :=
  ∃ c, s.link.current = some c ∧ c.kind = kind ∧ c.slot = i

/-- A release is owed only to a VACANT entry (R10), a hold runs only in an ACTIVE entry (R8), and a step count is at
most 20, below 20 while pages are exchanged (R51). -/
def Entry.Ok (e : Entry) : Prop :=
  (e.releaseOwed = true → e.state = .vacant) ∧ (e.hold ≠ 0 → e.isActive = true) ∧
    ∀ ctx, e.state = .negotiating ctx → ctx.steps ≤ 20 ∧ (ctx.phase = .exchange → ctx.steps < 20)

/-- Every entry is as the rules promise, the received pages fit the pool (R52), a CENSUS call on the link is to a VACANT
slot that owes no release (R23), and a PAGE call on the link is to an entry that is not in phase SETTLE (R43). -/
def TableOk (s : State) : Prop :=
  (∀ i : Slot, (s.entry i).Ok) ∧ s.pagesHeld ≤ 96 ∧
    (∀ i, s.callIs .census i → (s.entry i).state = .vacant ∧ (s.entry i).releaseOwed = false) ∧
    (∀ i ctx, s.callIs .page i → (s.entry i).context? = some ctx → ctx.phase = .exchange)

/-- At most one deferred entry belongs to any one slot and to any one handle, so that there are at most 8 (R149), no
FETCH on the link is to a slot that has one (R97), and an age is at most 2550 (Table 6-2). -/
def DeferredOk (s : State) : Prop :=
  (s.mu.queue.map Deferred.handle).Nodup ∧ (s.mu.queue.map Deferred.slot).Nodup ∧
    (∀ i, s.callIs .fetch i → s.deferredOf i = none) ∧
    ∀ d ∈ s.mu.queue, d.age ≤ 2550 ∧ (d.timeoutReached = false → d.age < 2550)

/-- The attempt count runs 1..8 (R63). -/
def LinkEngine.attemptOk (l : LinkEngine) : Prop := 1 ≤ l.attempt ∧ l.attempt ≤ 8

/-- What each state of the link engine holds (Table 3-1): a call in the states of an exchange and in no other but FAULT,
a stop pending exactly in STOPPING among the states of an exchange, and a broadcast held only in FAULT, never beside a
call. -/
def LinkEngine.Ok (l : LinkEngine) : Prop :=
  match l.state with
  | .off =>
    l.current = none ∧ l.activity = .quiet ∧ l.heldBroadcast = false ∧ l.stopPending = false ∧
      l.restartPending = false
  | .idle =>
    l.current = none ∧ l.activity = .quiet ∧ l.heldBroadcast = false ∧ l.stopPending = false ∧
      l.restartPending = false
  | .sending =>
    l.current.isSome = true ∧ (l.activity = .gap ∨ l.activity = .transmitting) ∧ l.attemptOk ∧
      l.heldBroadcast = false ∧ l.stopPending = false
  | .waiting =>
    l.current.isSome = true ∧ l.activity = .awaiting ∧ l.attemptOk ∧ l.heldBroadcast = false ∧ l.stopPending = false
  | .receiving =>
    l.current.isSome = true ∧ l.activity = .receiving ∧ l.attemptOk ∧ l.heldBroadcast = false ∧ l.stopPending = false
  | .stopping =>
    l.current.isSome = true ∧
      (l.activity = .gap ∨ l.activity = .transmitting ∨ l.activity = .awaiting ∨ l.activity = .receiving) ∧
      l.attemptOk ∧ l.heldBroadcast = false ∧ l.stopPending = true
  | .broadcasting =>
    l.current = none ∧ (l.activity = .transmitting ∨ l.activity = .frameEnding) ∧ l.heldBroadcast = false
  | .fault => l.activity = .quiet ∧ (l.heldBroadcast = true → l.current = none)

/-- The link engine is as the rules promise: the retry limit is 0..7 (R74), the quiet-time count is at most 10 (R63), and
each state holds what it should. -/
def LinkOk (s : State) : Prop := s.link.retryLimit.toNat ≤ 7 ∧ s.link.quiet ≤ 10 ∧ s.link.Ok

/-- The invariant of the controller: all of its parts. -/
def Inv (s : State) : Prop :=
  NoticesOk s ∧ CommandsOk s ∧ ConfigOk s ∧ TableOk s ∧ DeferredOk s ∧ LinkOk s

/-! ## Words of the claims -/

/-- RESETN is high: accesses and events are taken (R172, R87). -/
abbrev State.Running (s : State) : Prop := s.pins.resetn = .high

/-- The state with ACT and ARES as an action leaves them (R183). -/
def State.acted (s : State) (code : Byte) (r : ActionResult) : State :=
  { s with win := { s.win with act := code, ares := r } }

/-- The state with the offset stepped on, as a taken write of WDAT leaves it (R178). -/
def State.wdatStepped (s : State) : State := { s with win := { s.win with offset := min (s.win.offset + 1) 1023 } }

/-- The code a write to ACT writes, for the commands that are writes to ACT (Table 8-6, R184). -/
def actCode (i : Instr) : Option Byte :=
  match i with
  | .enableLink _ => some 0x01
  | .disableLink => some 0x02
  | .restartLink => some 0x03
  | .submit => some 0x10
  | .cancel => some 0x11
  | .popCompletion => some 0x12
  | .verdict => some 0x20
  | .popNotice => some 0x21
  | .detach => some 0x30
  | .release => some 0x31
  | .renegotiate => some 0x32
  | .unknownAction code => some code
  | .softReset _ | .rateCodeWrite _ | .accessRefusedClear _ | .ienWrite _ | .wselWrite _ | .widxWrite _ | .woffWrite _
  | .wdatRead | .wdatWrite _ | .mscountLowRead | .registerWrite _ _ | .pinReset | .lineFault _ | .lineRestored
  | .msTick _ _ | .pollDue _ | .pollOverdue _ | .censusIntervalElapsed | .holdEnd _ | .commandExpiry | .verdictTimeout
  | .callChoice | .callSent | .replyWindowExpiry | .retryGapEnd | .replyFrameEnd _ _ | .receptionLimit | .broadcastEnd
  | .replyStartBit | .quietTimeRestart _ | .pinResetEnd => none

/-- The command is an event on the line or in time: no access to the window and no reset. -/
def isEvent (i : Instr) : Bool :=
  match i with
  | .lineFault _ | .lineRestored | .msTick _ _ | .pollDue _ | .pollOverdue _ | .censusIntervalElapsed | .holdEnd _
  | .commandExpiry | .verdictTimeout | .callChoice | .callSent | .replyWindowExpiry | .retryGapEnd
  | .replyFrameEnd _ _ | .receptionLimit | .broadcastEnd | .replyStartBit | .quietTimeRestart _ => true
  | .enableLink _ | .disableLink | .restartLink | .submit | .cancel | .popCompletion | .verdict | .popNotice | .detach
  | .release | .renegotiate | .unknownAction _ | .softReset _ | .rateCodeWrite _ | .accessRefusedClear _ | .ienWrite _
  | .wselWrite _ | .widxWrite _ | .woffWrite _ | .wdatRead | .wdatWrite _ | .mscountLowRead | .registerWrite _ _
  | .pinReset | .pinResetEnd => false

/-- The command ends the attempt of the call on the link with an outcome: a reply frame ends and is classified (R73),
the reply window ends (R71), or the reception limit is reached (R72). -/
def AttemptEnds (i : Instr) (c : Call) (o : ExchangeOutcome) (s : State) : Prop :=
  s.Running ∧ s.link.current = some c ∧
    ((∃ first rest, i = .replyFrameEnd first rest ∧ s.exchangeIn .receiving .receiving = true ∧
        classify c (receivedBytes (first :: rest)) (anyFramingError (first :: rest)) = o) ∨
      (i = .replyWindowExpiry ∧ s.exchangeIn .waiting .awaiting = true ∧ o = .silence) ∨
      (i = .receptionLimit ∧ s.exchangeIn .receiving .receiving = true ∧ o = .garble))

/-- What the first half of a PAGE step makes of the context and of the record where it does not end the negotiation
(R45). An acknowledgement that does not match is ignored. One that does inverts the local toggle; where the call offered
a NULL page, local done is set or was; where it offered a local entry, the index moves on, local done tells whether the
list is at its end, and the comply flag of a MESSAGE entry is recorded. -/
def FirstHalf (px : PageExchange) (p : Page) (ctx a : Context) (r r1 : NegotiationRecord) : Prop :=
  ((p.ackValid = false ∨ p.ackToggle ≠ ctx.localToggle) ∧ a = ctx ∧ r1 = r) ∨
    (p.ackValid = true ∧ p.ackToggle = ctx.localToggle ∧
      (((ctx.localDone = true ∨ px.count ≤ ctx.localIndex) ∧
          a = { ctx with localDone := true, localToggle := !ctx.localToggle } ∧ r1 = r) ∨
        ∃ l, px.pages[ctx.localIndex]? = some l ∧ ctx.localDone = false ∧ ctx.localIndex < px.count ∧
          a =
            { ctx with
              localIndex := ctx.localIndex + 1, localDone := decide (ctx.localIndex + 1 = px.count)
              localToggle := !ctx.localToggle } ∧
          ((l.kind ≠ .message ∧ r1 = r) ∨
            (l.kind = .message ∧ (l.required = false ∨ p.comply = true) ∧ r1.dropped = r.dropped ∧
              ∀ n, n < 8 → r1.comply.getLsbD n = if n = ctx.localIndex then p.comply else r.comply.getLsbD n))))

/-- An attempt that ended with the outcome is followed by another: while the attempt count is at most the retry limit
(R74), and for a census after a first GARBLE (R24). -/
abbrev Retried (c : Call) (o : ExchangeOutcome) (l : LinkEngine) : Prop :=
  (o = .silence ∨ o = .garble) ∧
    ((c.kind ≠ .census ∧ l.attempt ≤ l.retryLimit.toNat) ∨ (c.kind = .census ∧ o = .garble ∧ l.attempt = 1))

/-- The command ends the exchange of the call on the link with an outcome (R76). -/
def ExchangeEnds (i : Instr) (c : Call) (o : ExchangeOutcome) (s : State) : Prop :=
  AttemptEnds i c o s ∧ ¬ Retried c o s.link

end Sys2Proof.Machine
end

