-- ==== Sys2Proof/WellFormed.lean ====
section
/-! DEFINITION. When a command is an instance of its row: the operands a row's own words shut out. The types of
the operands say the rest. -/

namespace Sys2Proof

/-- The action codes of Table 8-6 (R183). -/
def actionCodes : List Byte :=
  [0x01, 0x02, 0x03, 0x10, 0x11, 0x12, 0x20, 0x21, 0x30, 0x31, 0x32]

/-- A write of `value` to `address` has no row of its own: ARG0 to ARG3, the read-only registers, the unused
addresses, and LSTA with bit 7 clear (R173, R175, Table 8-1). -/
def hasNoRow (address : BitVec 6) (value : Byte) : Bool :=
  match address.toNat with
  | 0x00 => false
  | 0x01 => !value.msb
  | 0x02 => false
  | 0x04 => false
  | 0x0A => false
  | 0x0B => false
  | 0x0C => false
  | 0x0D => false
  | _ => true

/-- The start bit of a reply's first byte has been confirmed (R64, R71), and the frame ends before the reception limit
(R66, R72). -/
def isReceivable (first : Samples) (rest : List Samples) : Bool :=
  !first.getLsbD 0 && decide ((rest.countP fun c => !c.getLsbD 0) < Config.longestReception)

/-- A cause of a line fault names a bit that some frame has. -/
def isFrameBit (cause : FaultCause) : Bool :=
  match cause with
  | .lfltnLow => true
  | .echo bit _ => decide (bit < Config.byteBits * Config.longestFrame)

/-- The command's operands are ones its row admits. -/
def Instr.wellFormed (i : Instr) : Bool :=
  match i with
  | .enableLink _ => true
  | .disableLink => true
  | .restartLink => true
  | .submit => true
  | .cancel => true
  | .popCompletion => true
  | .verdict => true
  | .popNotice => true
  | .detach => true
  | .release => true
  | .renegotiate => true
  | .unknownAction code => !actionCodes.contains code
  | .softReset _ => true
  | .rateCodeWrite _ => true
  | .accessRefusedClear _ => true
  | .ienWrite _ => true
  | .wselWrite _ => true
  | .widxWrite _ => true
  | .woffWrite _ => true
  | .wdatRead => true
  | .wdatWrite _ => true
  | .mscountLowRead => true
  | .registerWrite address value => hasNoRow address value
  | .pinReset => true
  | .lineFault cause => isFrameBit cause
  | .lineRestored => true
  | .msTick _ _ => true
  | .pollDue _ => true
  | .pollOverdue _ => true
  | .censusIntervalElapsed => true
  | .holdEnd _ => true
  | .commandExpiry => true
  | .verdictTimeout => true
  | .callChoice => true
  | .callSent => true
  | .replyWindowExpiry => true
  | .retryGapEnd => true
  | .replyFrameEnd first rest => isReceivable first rest
  | .receptionLimit => true
  | .broadcastEnd => true
  | .replyStartBit => true
  | .quietTimeRestart _ => true
  | .pinResetEnd => true

end Sys2Proof
end

