-- ==== Sys2Proof/Certificates/Slice0/Obligations.lean ====
section
/-! DEFINITION. The statements of this model, for the provers. Each is about the commands the dispatcher gives meanings
to, in every state; a statement that rests on a choice of the model names its log entry. -/

open Sys2Proof Sys2Proof.Machine

/-! ## The step, the reset pin and the resets -/

/-- A step takes the command at the front of the queue and answers its outcome on the state with the queue's rest; with
an empty queue the block idles (log 1: the queue and the idling are the model's). -/
def Obligations.StepTakesFrontCommand : Prop :=
  (∀ (c : Instr) (s : State), step { s with pending := c :: s.pending } = exec c s) ∧
    ∀ s : State, s.pending = [] → step s = .next s

/-- Every command answers a next state in every state and leaves the queue of waiting commands alone. This is the
model's: that no command faults or is refused (log 25), that the queue stands apart from the effects (log 1), and that an
event presented where it cannot arise is taken too (log 2). While RESETN is low a read returns 0 and no other command
but PIN_RESET and PIN_RESET_END has any effect (R172, R87; of the events on the line and in time this is the model's
reading, log 7). -/
def Obligations.CommandsComplete : Prop :=
  (∀ (i : Instr) (s : State), ∃ t, exec i s = .next t ∧ t.pending = s.pending) ∧
  (∀ (i : Instr) (s : State), s.pins.resetn = .low → i ≠ .pinReset → i ≠ .pinResetEnd →
     exec i s = .next
       (if i = .wdatRead ∨ i = .mscountLowRead then { s with pins := { s.pins with readData := 0 } } else s))

/-- The values the rules state for a pin reset, in the state after reset, for every block: the module table, the link
engine, the call scheduler, the page exchange unit, the command engine, the message unit, the notice queue and the
register window; and INTN is released. -/
def Obligations.ResetValues : Prop :=
  (∀ i : Slot, (State.reset.entry i).state = .vacant ∧ (State.reset.entry i).censusEnable = false ∧
      (State.reset.entry i).pollPeriod = 20 ∧ (State.reset.entry i).releaseOwed = false ∧
      (State.reset.entry i).cls = none ∧ (State.reset.entry i).basePage = none ∧ (State.reset.entry i).pages = [] ∧
      (State.reset.entry i).record = none ∧ (State.reset.entry i).missCount = 0 ∧
      (State.reset.entry i).status = none ∧ (State.reset.entry i).fetchWanted = false ∧
      (State.reset.entry i).lastNumber = none ∧ (State.reset.entry i).lastVerdict = none ∧
      (State.reset.entry i).verdictOwed = none ∧ (State.reset.entry i).hold = 0 ∧
      (State.reset.entry i).seqBit = false) ∧
    (State.reset.link.state = .off ∧ State.reset.link.current = none ∧ State.reset.link.heldBroadcast = false ∧
      State.reset.link.attempt = 0 ∧ State.reset.link.stopPending = false ∧
      State.reset.link.restartPending = false ∧ State.reset.link.quiet = 0 ∧ State.reset.link.rate = 1 ∧
      State.reset.link.replyWindow = 30 ∧ State.reset.link.retryLimit = 2 ∧ State.reset.txen = false) ∧
    (State.reset.sched.mscount = 0 ∧ State.reset.sched.holding = 0 ∧ slotByte State.reset.sched.sweep = 1 ∧
      slotByte State.reset.sched.negPtr = 1 ∧ slotByte State.reset.sched.fetchPtr = 1 ∧
      State.reset.sched.censusElapsed = 0 ∧ State.reset.sched.censusInterval = 10 ∧
      State.reset.sched.missLimit = 3 ∧ State.reset.sched.owed = []) ∧
    (State.reset.px.count = 0 ∧
      (∀ k : Fin 8, State.reset.px.pages[k.val] = ⟨.null, ⟨0, 0, 0, 0⟩, false⟩) ∧
      (∀ code : Byte, State.reset.px.accept.getLsbD code.toNat = false) ∧
      (∀ k : Fin 16, State.reset.px.filter[k.val] = 0xFF) ∧ State.reset.poolFree = 96) ∧
    (State.reset.ce.queue = [] ∧ State.reset.ce.inFlight = none ∧ State.reset.ce.completions = []) ∧
    (State.reset.mu.queue = [] ∧ State.reset.mu.timeout = 25 ∧
      ∀ h : Handle, State.reset.mu.handles[h.val] = ⟨0, .none⟩) ∧
    (State.reset.nq.notices = [] ∧ State.reset.nq.lost = 0) ∧
    (State.reset.win.refused = false ∧ State.reset.win.ien = 0 ∧ State.reset.win.act = 0 ∧
      State.reset.win.ares = .none ∧ (∀ k : Fin 4, State.reset.win.args[k.val] = 0) ∧
      State.reset.win.area = .module ∧ State.reset.win.widx = 0 ∧ State.reset.win.offset = 0 ∧
      (∀ k, State.reset.win.snapshot.getD k 0 = 0) ∧ ∀ k, State.reset.win.staging.bytes.getD k 0 = 0) ∧
    State.reset.intnLow = false

/-- A pin reset puts every block at its reset values with RESETN low and keeps the other input levels and the waiting
commands (log 6; the byte last driven is then 0, log 8), and its end raises RESETN and changes nothing else. A soft
reset keeps the configuration and puts the rest at the reset values; it keeps the pins, the byte last driven and the
waiting commands, which are the model's (log 26). -/
def Obligations.PinResetAndSoftReset : Prop :=
  (∀ s : State, exec .pinReset s = .next
      { State.reset with
        pins := { resetn := .low, lfltn := s.pins.lfltn, rxd := s.pins.rxd, readData := 0 }
        pending := s.pending }) ∧
    (∀ s : State, exec .pinResetEnd s = .next { s with pins := { s.pins with resetn := .high } }) ∧
    ∀ (low : BitVec 7) (s : State), s.Running →
      exec (.softReset low) s = .next
        { pins := s.pins
          win := { State.reset.win with ien := s.win.ien }
          table := s.table.map fun e =>
            { Entry.reset with censusEnable := e.censusEnable, pollPeriod := e.pollPeriod }
          px := s.px
          link :=
            { State.reset.link with
              rate := s.link.rate, replyWindow := s.link.replyWindow, retryLimit := s.link.retryLimit }
          sched :=
            { State.reset.sched with censusInterval := s.sched.censusInterval, missLimit := s.sched.missLimit }
          ce := State.reset.ce
          mu := { State.reset.mu with timeout := s.mu.timeout }
          nq := State.reset.nq
          pending := s.pending }

/-! ## The register window -/

/-- No event on the line or in time changes the window (the snapshot, the staging area, ARES, the arguments, IEN and the
access-refused flag among it), and a write to ACT changes nothing of it but ACT and ARES. -/
def Obligations.WindowKept : Prop :=
  (∀ (i : Instr) (s : State), isEvent i = true → ∃ t, exec i s = .next t ∧ t.win = s.win) ∧
    ∀ (i : Instr) (code : Byte) (s : State), actCode i = some code → s.Running →
      ∃ t, exec i s = .next t ∧ t.win = { s.win with act := code, ares := t.win.ares }

/-- A write to ACT of a code outside Table 8-6, 0x00 included, sets ACT to the code and ARES to UNKNOWN_ACTION, and
changes nothing else. -/
def Obligations.UnknownActionResult : Prop :=
  ∀ (code : Byte) (s : State), s.Running →
    code ∉ [0x01, 0x02, 0x03, 0x10, 0x11, 0x12, 0x20, 0x21, 0x30, 0x31, 0x32] →
      exec (.unknownAction code) s = .next { s with win := { s.win with act := code, ares := .unknownAction } } ∧
        ActionResult.unknownAction.code = 0x17

/-- IEN and ISRC use one bit for each source, 0 NOTICE, 1 COMPLETION, 2 DECISION and 3 LINE, and read 0 in bits 7..4. A
write to IEN sets the four enables from bits 3..0 and changes nothing else. A pin reset clears IEN; a soft reset keeps it,
and so does a link restart, both when it is asked for and when an event makes it act. -/
def Obligations.IenAndIsrc : Prop :=
  (∀ (value : Byte) (s : State), s.Running →
      exec (.ienWrite value) s = .next { s with win := { s.win with ien := value.extractLsb' 0 4 } }) ∧
    (∀ s : State, s.Running →
      s.readRegister 0x02 = 0#4 ++ s.win.ien ∧
        s.readRegister 0x03 =
          0#4 ++ BitVec.ofBool (decide (s.link.state = .fault)) ++
            BitVec.ofBool (s.mu.queue.any fun d => d.decision.isNone) ++
            BitVec.ofBool (decide (s.ce.completions ≠ [])) ++ BitVec.ofBool (decide (s.nq.notices ≠ []))) ∧
    (∀ s : State, ∃ t, exec .pinReset s = .next t ∧ t.win.ien = 0) ∧
    (∀ (low : BitVec 7) (s : State), ∃ t, exec (.softReset low) s = .next t ∧ t.win.ien = s.win.ien) ∧
    (∀ s : State, ∃ t, exec .restartLink s = .next t ∧ t.win.ien = s.win.ien) ∧
    ∀ (i : Instr) (s : State), isEvent i = true → ∃ t, exec i s = .next t ∧ t.win.ien = s.win.ien

/-- INTN is driven low exactly while RESETN is high and some source is true with its enable set. -/
def Obligations.IntnFollowsSources : Prop :=
  ∀ s : State, s.intnLow = true ↔
    s.Running ∧
      ((s.nq.notices ≠ [] ∧ s.win.ien.getLsbD 0 = true) ∨
        (s.ce.completions ≠ [] ∧ s.win.ien.getLsbD 1 = true) ∨
        ((∃ d ∈ s.mu.queue, d.decision = none) ∧ s.win.ien.getLsbD 2 = true) ∨
        (s.link.state = .fault ∧ s.win.ien.getLsbD 3 = true))

/-- LCTL: code 3 is refused in every state, the code held is taken without effect in every state, another code is taken
in OFF and refused elsewhere; a read returns the code. LSTA: a write with bit 7 set clears the access-refused flag; a read
shows the engine's state in bits 2..0 and the flag in bit 7. -/
def Obligations.LctlAndLsta : Prop :=
  (∀ (low : BitVec 7) (s : State), s.Running → low.extractLsb' 0 2 = 3#2 →
      exec (.rateCodeWrite low) s = .next { s with win := { s.win with refused := true } }) ∧
    (∀ (low : BitVec 7) (s : State), s.Running → low.extractLsb' 0 2 ≠ 3#2 → low.extractLsb' 0 2 = s.link.rate →
      exec (.rateCodeWrite low) s = .next s) ∧
    (∀ (low : BitVec 7) (s : State), s.Running → low.extractLsb' 0 2 ≠ 3#2 → low.extractLsb' 0 2 ≠ s.link.rate →
      s.link.state = .off →
      exec (.rateCodeWrite low) s = .next { s with link := { s.link with rate := low.extractLsb' 0 2 } }) ∧
    (∀ (low : BitVec 7) (s : State), s.Running → low.extractLsb' 0 2 ≠ 3#2 → low.extractLsb' 0 2 ≠ s.link.rate →
      s.link.state ≠ .off →
      exec (.rateCodeWrite low) s = .next { s with win := { s.win with refused := true } }) ∧
    (∀ (low : BitVec 7) (s : State), s.Running →
      exec (.accessRefusedClear low) s = .next { s with win := { s.win with refused := false } }) ∧
    ∀ s : State, s.Running →
      s.readRegister 0x00 = 0#6 ++ s.link.rate ∧
        s.readRegister 0x01 =
          BitVec.ofBool s.win.refused ++ 0#4 ++
            (match s.link.state with
              | .off => 0#3
              | .idle => 1#3
              | .sending => 2#3
              | .waiting => 3#3
              | .receiving => 4#3
              | .broadcasting => 5#3
              | .fault => 6#3
              | .stopping => 7#3)

/-- WSEL takes 0 to 9, the codes of Table 8-2, sets the offset to 0 and, for MODULE, PAGES and DEFERRED, takes a
copy; it refuses 10 and above. WIDX takes every value in the same way. WOFF sets the offset and takes no copy. A copy holds the MODULE record
of the slot, 96 bytes with every field at its offset of Table 10-4, an absent field reading 0; or the slot's received
pages, six bytes each; or the DEFERRED record of a handle, with every field of the entry it holds at its offset of
Table 10-6, or its generation and end-cause where it is free; where the index is out of range the copy reads 0 in
every byte, which the model holds as the empty list (log 14). A slot stands as 1 to 30 in a byte, a handle as 0 to 7, a flag as 1 or 0,
and a two-byte value as its low byte and its high byte. -/
def Obligations.WindowSelectionAndCopies : Prop :=
  ((∀ (value : Byte) (s : State), s.Running → 10 ≤ value.toNat →
       exec (.wselWrite value) s = .next { s with win := { s.win with refused := true } }) ∧
     (∀ (a : Area) (s : State), s.Running →
       exec
         (.wselWrite
           (match a with
             | .module => 0
             | .localPage => 1
             | .accept => 2
             | .classFilter => 3
             | .pages => 4
             | .staging => 5
             | .completion => 6
             | .notice => 7
             | .deferred => 8
             | .params => 9)) s = .next
         { s with win :=
           { s.win with
             area := a
             offset := 0
             snapshot :=
               if a = .module ∨ a = .pages ∨ a = .deferred then s.copyOf a s.win.widx else s.win.snapshot } }) ∧
     (∀ (value : Byte) (s : State), s.Running →
       exec (.widxWrite value) s = .next
         { s with win :=
           { s.win with
             widx := value
             offset := 0
             snapshot :=
               if s.win.area = .module ∨ s.win.area = .pages ∨ s.win.area = .deferred then
                 s.copyOf s.win.area value
               else s.win.snapshot } }) ∧
     ∀ (value : Byte) (s : State), s.Running →
       exec (.woffWrite value) s = .next { s with win := { s.win with offset := value.toNat } }) ∧
  ((∀ (i : Slot) (s : State),
       let e := s.entry i
       let b := fun k => (s.copyOf .module (slotByte i)).getD k 0
       (s.copyOf .module (slotByte i)).length = 96 ∧
         b 0 =
           (match e.state with
             | .vacant => 0
             | .negotiating _ => 1
             | .active _ => 2
             | .failed _ => 3
             | .lost => 4) ∧
         ((b 1).getLsbD 0 = e.cls.isSome ∧ (b 1).getLsbD 1 = e.basePage.isSome ∧
           (b 1).getLsbD 2 = e.context?.isSome ∧ ((b 1).getLsbD 3 = true ↔ ∃ f, e.state = .failed f) ∧
           (b 1).getLsbD 4 = e.active?.isSome ∧ (b 1).getLsbD 5 = e.status.isSome ∧
           (b 1).getLsbD 6 = e.lastNumber.isSome ∧ (b 1).getLsbD 7 = e.lastVerdict.isSome) ∧
         ((b 2).getLsbD 0 = e.verdictOwed.isSome ∧
           ((b 2).getLsbD 1 = true ↔ ∃ v, e.verdictOwed = some v ∧ v.renegotiation = true) ∧
           (b 2).getLsbD 2 = e.outstanding?.isSome ∧ (b 2).getLsbD 3 = e.record.isSome ∧ (b 2).toNat < 16) ∧
         b 3 = byteOfBool e.censusEnable ∧ b 4 = e.pollPeriod ∧ b 5 = byteOfBool e.releaseOwed ∧
         b 6 = 0#4 ++ e.cls.getD 0 ∧
         (∀ p, e.basePage = some p → b 7 = p.b0 ∧ b 8 = p.b1 ∧ b 9 = p.b2) ∧
         (e.basePage = none → b 7 = 0 ∧ b 8 = 0 ∧ b 9 = 0) ∧ b 10 = byteOfNat e.pages.length ∧
         (∀ r, e.record = some r → b 11 = r.dropped ∧ b 12 = r.comply) ∧ (e.record = none → b 11 = 0 ∧ b 12 = 0) ∧
         (∀ f, e.state = .failed f →
           b 13 =
             (match f with
               | .silent => 1
               | .pageOrder => 2
               | .stepLimit => 3
               | .notComplied => 4
               | .noCommonProfile => 5
               | .moduleReported => 6
               | .profileDisagree => 7
               | .classMismatch => 8)) ∧
         ((∀ f, e.state ≠ .failed f) → b 13 = 0) ∧
         (∀ d, e.active? = some d →
           b 14 = BitVec.ofNat 8 d.profile.val ∧ b 15 = d.nextDue.extractLsb' 0 8 ∧
             b 16 = d.nextDue.extractLsb' 8 8 ∧
             b 17 =
               (match d.standing with
                 | .notDue => 0
                 | .due => 1
                 | .overdue => 2) ∧
             b 73 = d.period ∧ b 74 = d.alarmBaseline) ∧
         (e.active? = none → ∀ k, k ∈ [14, 15, 16, 17, 73, 74] → b k = 0) ∧
         b 18 = byteOfNat e.missCount ∧ b 19 = byteOfBool e.fetchWanted ∧ b 20 = e.hold ∧
         b 21 = byteOfBool e.seqBit ∧
         (∀ r, e.status = some r →
           b 22 = r.state ∧ b 23 = r.alarm ∧ b 24 = 0#4 ++ r.pending ∧ b 25 = r.r0 ∧ b 26 = r.r1 ∧ b 27 = r.r2 ∧
             b 28 = r.r3) ∧
         (e.status = none → ∀ k, 22 ≤ k → k ≤ 28 → b k = 0) ∧ b 29 = 0#4 ++ e.lastNumber.getD 0 ∧
         (∀ v, e.lastVerdict = some v →
           b 30 = 0#4 ++ v.number ∧ b 31 = (if v.code = .accept then 1 else 2) ∧ b 32 = v.reason) ∧
         (e.lastVerdict = none → b 30 = 0 ∧ b 31 = 0 ∧ b 32 = 0) ∧
         (∀ v, e.verdictOwed = some v →
           b 33 = 0#4 ++ v.verdict.number ∧ b 34 = (if v.verdict.code = .accept then 1 else 2) ∧
             b 35 = v.verdict.reason) ∧
         (e.verdictOwed = none → b 33 = 0 ∧ b 34 = 0 ∧ b 35 = 0) ∧
         (∀ x, e.context? = some x →
           (x.phase = .exchange → b 36 = 0 ∧ b 42 = 0) ∧
             (∀ p, x.phase = .settle p → b 36 = 1 ∧ b 42 = BitVec.ofNat 8 p.val) ∧
             b 37 = BitVec.ofNat 8 x.steps ∧ b 38 = BitVec.ofNat 8 x.localIndex ∧
             (b 39).getLsbD 0 = x.localDone ∧ (b 39).getLsbD 1 = x.localToggle ∧
             (b 39).getLsbD 2 = x.moduleToggle.getD false ∧ (b 39).getLsbD 3 = x.moduleToggle.isSome ∧
             (b 39).getLsbD 4 = x.finalSeen ∧
             (x.ack = none → (b 39).getLsbD 5 = false ∧ (b 39).getLsbD 6 = false ∧ (b 39).getLsbD 7 = false) ∧
             (∀ a, x.ack = some a →
               (b 39).getLsbD 5 = a.toggle ∧ (b 39).getLsbD 6 = a.comply ∧ (b 39).getLsbD 7 = true) ∧
             b 40 = BitVec.ofNat 8 x.argsLeft ∧ b 41 = byteOfBool x.fresh) ∧
         (e.context? = none → ∀ k, 36 ≤ k → k ≤ 42 → b k = 0) ∧
         (∀ o, e.outstanding? = some o →
           b 43 = o.held.cmd.tag ∧ b 44 = o.held.cmd.code ∧ b 45 = byteOfNat o.held.cmd.payload.length ∧
             b 47 ++ b 46 = BitVec.ofNat 16 (o.held.remaining.getD 0) ∧ b 48 = byteOfBool o.seq ∧
             ∀ n, n < 24 → b (49 + n) = o.held.cmd.payload.getD n 0) ∧
         (e.outstanding? = none → ∀ k, 43 ≤ k → k ≤ 72 → b k = 0) ∧ ∀ k, 75 ≤ k → b k = 0) ∧
     (∀ (i : Slot) (s : State),
       s.copyOf .pages (slotByte i) =
         (s.entry i).pages.flatMap fun p =>
           [(match p.kind with
              | .base => 0
              | .message => 1
              | .unformatted => 2
              | .null => 3), p.body.b0, p.body.b1, p.body.b2, p.body.b3, byteOfBool p.comply]) ∧
     (∀ (h : Handle) (s : State), (∀ d ∈ s.mu.queue, d.handle ≠ h) →
       s.copyOf .deferred (handleByte h) =
         [0, 0#4 ++ s.mu.handles[h.val].generation, 0,
           (match s.mu.handles[h.val].endCause with
             | .none => 0
             | .software => 1
             | .timeout => 2
             | .gone => 3)] ++
           List.replicate 37 0) ∧
     (∀ (h : Handle) (d : Deferred) (s : State), s.deferredAt h = some d →
       let b := fun k => (s.copyOf .deferred (handleByte h)).getD k 0
       (s.copyOf .deferred (handleByte h)).length = 41 ∧ b 0 = BitVec.ofNat 8 h.val ∧
         b 1 = 0#4 ++ s.mu.handles[h.val].generation ∧ b 2 = (if d.decision = none then 1 else 2) ∧ b 3 = 0 ∧
         b 4 = slotByte d.slot ∧ b 5 = d.cls ∧ b 6 = 0#4 ++ d.number ∧ b 7 = byteOfNat d.data.length ∧
         (d.decision = none → b 8 = 0 ∧ b 9 = 0 ∧ b 10 = 0) ∧
         (∀ x, d.decision = some x →
           b 8 = (if x.code = .accept then 1 else 2) ∧ b 9 = x.reason ∧
             b 10 = (if x.decidedBy = .software then 1 else 2)) ∧
         b 12 ++ b 11 = BitVec.ofNat 16 d.age ∧ ∀ n, n < 28 → b (13 + n) = d.data.getD n 0) ∧
     (∀ (index : Byte) (s : State), index = 0 ∨ 30 < index.toNat →
       s.copyOf .module index = [] ∧ s.copyOf .pages index = []) ∧
     ∀ (index : Byte) (s : State), 8 ≤ index.toNat → s.copyOf .deferred index = []) ∧
  (∀ i : Slot, slotByte i = BitVec.ofNat 8 (i.val + 1)) ∧ (∀ h : Handle, handleByte h = BitVec.ofNat 8 h.val) ∧
    (∀ n : Nat, byteOfNat n = BitVec.ofNat 8 n) ∧ byteOfBool true = 1 ∧ byteOfBool false = 0 ∧
    ∀ w : BitVec 16, lowByte w = w.extractLsb' 0 8 ∧ highByte w = w.extractLsb' 8 8

/-- A read of WDAT drives the byte at the offset and steps the offset, which stops at 1023, and changes nothing else. The
byte is the copy's in MODULE, PAGES and DEFERRED, and the owner's in a live area, with the notice kinds by their codes of
Table 7-1 and the completion statuses and page kinds by theirs of Tables 10-6 and 10-5; past the record it is 0. -/
def Obligations.WdatRead : Prop :=
  ∀ s : State, s.Running →
    exec .wdatRead s = .next
        { s with
          pins := { s.pins with readData := s.windowByte }
          win := { s.win with offset := min (s.win.offset + 1) 1023 } } ∧
      ((s.win.area = .module ∨ s.win.area = .pages ∨ s.win.area = .deferred) →
        s.windowByte = s.win.snapshot.getD s.win.offset 0) ∧
      (s.win.area = .notice → s.nq.notices = [] → s.windowByte = 0) ∧
      (∀ n rest, s.win.area = .notice → s.nq.notices = n :: rest →
        s.windowByte =
          [(match n.kind with
              | .moduleFound => 0x01
              | .negotiated => 0x02
              | .negotiationFailed => 0x03
              | .renegotiating => 0x04
              | .pagesDropped => 0x05
              | .moduleLost => 0x06
              | .slotConflict => 0x07
              | .slotMismatch => 0x08
              | .alarmChanged => 0x09
              | .messageRejected => 0x0A
              | .messageGap => 0x0B
              | .lateStale => 0x0C
              | .verdictTimeout => 0x0D
              | .deferredGone => 0x0E
              | .lineFault => 0x0F
              | .lineRestored => 0x10
              | .linkRestarted => 0x11
              | .noticesLost => 0x12), n.slot, n.detail, lowByte n.timestamp, highByte n.timestamp].getD
            s.win.offset 0) ∧
      (s.win.area = .completion → s.ce.completions = [] → s.windowByte = 0) ∧
      (∀ c rest, s.win.area = .completion → s.ce.completions = c :: rest → c.data.length ≤ 24 →
        s.windowByte =
          ([c.tag, slotByte c.target, c.code,
              (match c.status with
                | .ok => 1
                | .refused => 2
                | .noReply => 3
                | .expired => 4
                | .cancelled => 5
                | .moduleLost => 6
                | .detached => 7
                | .renegotiated => 8
                | .linkRestart => 9), c.detail, byteOfNat c.data.length] ++
            c.data).getD s.win.offset 0) ∧
      (s.win.area = .staging →
        s.windowByte =
          ([s.win.staging.target, s.win.staging.code, s.win.staging.tag, s.win.staging.length,
            lowByte s.win.staging.deadline, highByte s.win.staging.deadline] ++
              s.win.staging.payload.toList).getD s.win.offset 0) ∧
      (s.win.area = .params →
        s.windowByte =
          [s.link.replyWindow, s.link.retryLimit, s.sched.missLimit, s.sched.censusInterval, s.mu.timeout,
            byteOfNat s.px.count].getD s.win.offset 0) ∧
      (s.win.area = .accept → s.windowByte = byteOfBool (s.px.accept.getLsbD s.win.offset)) ∧
      (s.win.area = .classFilter → s.windowByte = s.px.filter.toList.getD s.win.offset 0) ∧
      (∀ h : s.win.widx.toNat < 8, s.win.area = .localPage →
        s.windowByte =
          [(match (s.px.pages[s.win.widx.toNat]).kind with
              | .base => 0
              | .message => 1
              | .unformatted => 2
              | .null => 3), (s.px.pages[s.win.widx.toNat]).body.b0,
            (s.px.pages[s.win.widx.toNat]).body.b1, (s.px.pages[s.win.widx.toNat]).body.b2,
            (s.px.pages[s.win.widx.toNat]).body.b3,
            byteOfBool (s.px.pages[s.win.widx.toNat]).required].getD s.win.offset 0) ∧
      (s.win.area = .localPage → 8 ≤ s.win.widx.toNat → s.windowByte = 0)

/-- Every write of WDAT that Table 8-4 refuses changes no state, sets the access-refused flag and steps the offset. -/
def Obligations.WdatWriteRefused : Prop :=
  ∀ (value : Byte) (s : State), s.Running →
    (s.win.area = .pages ∨ s.win.area = .completion ∨ s.win.area = .notice ∨ s.win.area = .deferred ∨
      (s.win.area = .module ∧
        (s.win.widx = 0 ∨ 30 < s.win.widx.toNat ∨ (s.win.offset ≠ 3 ∧ s.win.offset ≠ 4) ∨
          (s.win.offset = 3 ∧ 1 < value.toNat) ∨ (s.win.offset = 4 ∧ value = 0))) ∨
      (s.win.area = .localPage ∧
        (s.link.state ≠ .off ∨ 8 ≤ s.win.widx.toNat ∨ 6 ≤ s.win.offset ∨ (s.win.offset = 0 ∧ 3 < value.toNat) ∨
          (s.win.offset = 5 ∧ 1 < value.toNat))) ∨
      (s.win.area = .accept ∧ (256 ≤ s.win.offset ∨ 1 < value.toNat)) ∨
      (s.win.area = .classFilter ∧ 16 ≤ s.win.offset) ∨
      (s.win.area = .staging ∧ 30 ≤ s.win.offset) ∨
      (s.win.area = .params ∧
        (6 ≤ s.win.offset ∨ (s.win.offset = 0 ∧ value.toNat < 5) ∨ (s.win.offset = 1 ∧ 7 < value.toNat) ∨
          (s.win.offset = 2 ∧ (value = 0 ∨ 15 < value.toNat)) ∨ (s.win.offset = 3 ∧ value = 0) ∨
          (s.win.offset = 4 ∧ value = 0) ∨
          (s.win.offset = 5 ∧ (8 < value.toNat ∨ s.link.state ≠ .off))))) →
    exec (.wdatWrite value) s = .next
      { s with win := { s.win with refused := true, offset := min (s.win.offset + 1) 1023 } }

/-- The writes of PARAMS that are taken (Table 8-3) each set their one parameter. The writes of MODULE that are taken set the
census enable or the poll period of slot WIDX, in its entry and in the same byte of the copy. Each steps the offset, and
nothing else changes. -/
def Obligations.WdatWriteParamsAndModule : Prop :=
  (∀ s : State, s.wdatStepped = { s with win := { s.win with offset := min (s.win.offset + 1) 1023 } }) ∧
  (∀ (value : Byte) (s : State), s.Running → s.win.area = .params →
     (s.win.offset = 0 → 5 ≤ value.toNat →
       exec (.wdatWrite value) s = .next { s.wdatStepped with link := { s.link with replyWindow := value } }) ∧
     (s.win.offset = 1 → value.toNat ≤ 7 →
       exec (.wdatWrite value) s = .next { s.wdatStepped with link := { s.link with retryLimit := value } }) ∧
     (s.win.offset = 2 → 1 ≤ value.toNat → value.toNat ≤ 15 →
       exec (.wdatWrite value) s = .next { s.wdatStepped with sched := { s.sched with missLimit := value } }) ∧
     (s.win.offset = 3 → 1 ≤ value.toNat →
       exec (.wdatWrite value) s = .next { s.wdatStepped with sched := { s.sched with censusInterval := value } }) ∧
     (s.win.offset = 4 → 1 ≤ value.toNat →
       exec (.wdatWrite value) s = .next { s.wdatStepped with mu := { s.mu with timeout := value } }) ∧
     (s.win.offset = 5 → value.toNat ≤ 8 → s.link.state = .off →
       exec (.wdatWrite value) s = .next { s.wdatStepped with px := { s.px with count := value.toNat } })) ∧
  (∀ (i : Slot) (value : Byte) (s : State), s.Running → s.win.area = .module → s.win.widx = slotByte i →
     (s.win.offset = 3 → value.toNat ≤ 1 →
       exec (.wdatWrite value) s = .next
         { s with
           win := { s.win with snapshot := s.win.snapshot.set 3 value, offset := 4 }
           table := s.table.set i.val { s.entry i with censusEnable := decide (value = 1) } }) ∧
     (s.win.offset = 4 → value ≠ 0 →
       exec (.wdatWrite value) s = .next
         { s with
           win := { s.win with snapshot := s.win.snapshot.set 4 value, offset := 5 }
           table := s.table.set i.val { s.entry i with pollPeriod := value } }))

/-- The writes of LOCALPAGE (in OFF), ACCEPT, CLASSFILTER and STAGING that are taken: each sets the one byte it addresses
and steps the offset, and changes nothing else. -/
def Obligations.WdatWriteStores : Prop :=
  ∀ (value : Byte) (s : State), s.Running →
    (∀ h : s.win.widx.toNat < 8, s.win.area = .localPage → s.link.state = .off →
      ∀ p, p = s.px.pages[s.win.widx.toNat] →
        let wrote := fun q : LocalPage =>
          exec (.wdatWrite value) s = .next
            { s.wdatStepped with px := { s.px with pages := s.px.pages.set s.win.widx.toNat q } }
        (s.win.offset = 0 →
            (value = 0 → wrote { p with kind := .base }) ∧ (value = 1 → wrote { p with kind := .message }) ∧
              (value = 2 → wrote { p with kind := .unformatted }) ∧ (value = 3 → wrote { p with kind := .null })) ∧
          (s.win.offset = 1 → wrote { p with body := { p.body with b0 := value } }) ∧
          (s.win.offset = 2 → wrote { p with body := { p.body with b1 := value } }) ∧
          (s.win.offset = 3 → wrote { p with body := { p.body with b2 := value } }) ∧
          (s.win.offset = 4 → wrote { p with body := { p.body with b3 := value } }) ∧
          (s.win.offset = 5 → value.toNat ≤ 1 → wrote { p with required := decide (value = 1) })) ∧
      (s.win.area = .accept → s.win.offset < 256 → value.toNat ≤ 1 →
        ∃ accept : BitVec 256,
          exec (.wdatWrite value) s = .next { s.wdatStepped with px := { s.px with accept := accept } } ∧
            ∀ code, code < 256 →
              accept.getLsbD code = if code = s.win.offset then decide (value = 1) else s.px.accept.getLsbD code) ∧
      (∀ h : s.win.offset < 16, s.win.area = .classFilter →
        exec (.wdatWrite value) s = .next
          { s.wdatStepped with px := { s.px with filter := s.px.filter.set s.win.offset value } }) ∧
      (s.win.area = .staging → s.win.offset < 30 →
        ∃ g : Staging,
          exec (.wdatWrite value) s = .next
              { s with win := { s.win with staging := g, offset := min (s.win.offset + 1) 1023 } } ∧
            ∀ k, k < 30 →
              g.bytes.getD k 0 = if k = s.win.offset then value else s.win.staging.bytes.getD k 0)

/-- A read of the MSCOUNT low byte returns it and copies the high byte into the holding byte, which a read of the high
byte returns. A write to ARG0..ARG3 sets that argument only; a write to a read-only register, to an unused address, or
to LSTA with bit 7 clear changes nothing, and the unused addresses read 0. ACT reads the code written last, ARES the
code of the result by Table 8-7, ARG0..ARG3, WSEL and WIDX what they hold, and WOFF the low eight bits of the offset;
QCNT, CCNT, NCNT and DEFCOUNT read the counts of their queues, OLDEST_OPEN the handle and generation of the oldest
OPEN entry or 0xFF, and POOLFREE the free places of the pool. While RESETN is low every read returns 0. -/
def Obligations.MscountReadAndPlainWrites : Prop :=
  (∀ s : State, s.Running →
     exec .mscountLowRead s = .next
         { s with
           pins := { s.pins with readData := s.sched.mscount.extractLsb' 0 8 }
           sched := { s.sched with holding := s.sched.mscount.extractLsb' 8 8 } } ∧
       s.readRegister 0x14 = s.sched.mscount.extractLsb' 0 8 ∧ s.readRegister 0x15 = s.sched.holding) ∧
  ((∀ (k : Fin 4) (value : Byte) (s : State), s.Running →
       exec (.registerWrite (BitVec.ofNat 6 (6 + k.val)) value) s = .next
         { s with win := { s.win with args := s.win.args.set k.val value } }) ∧
     (∀ (address : BitVec 6) (value : Byte) (s : State), s.Running →
       address = 0x03 ∨ address = 0x05 ∨ 0x0E ≤ address.toNat → exec (.registerWrite address value) s = .next s) ∧
     (∀ (value : Byte) (s : State), s.Running → value.msb = false → exec (.registerWrite 0x01 value) s = .next s) ∧
     ∀ (address : BitVec 6) (s : State), s.Running → 0x16 ≤ address.toNat → s.readRegister address = 0) ∧
  (∀ s : State, s.Running →
     s.readRegister 0x04 = s.win.act ∧
       s.readRegister 0x05 =
         (match s.win.ares with
           | .none => 0x00
           | .done => 0x01
           | .accepted => 0x02
           | .queueFull => 0x03
           | .badTarget => 0x04
           | .badLength => 0x05
           | .badDeadline => 0x06
           | .removed => 0x07
           | .cancelled => 0x08
           | .atEnd => 0x09
           | .notFound => 0x0A
           | .empty => 0x0B
           | .taken => 0x0C
           | .tooLate => 0x0D
           | .alreadyDecided => 0x0E
           | .gone => 0x0F
           | .noEntry => 0x10
           | .badReason => 0x11
           | .badSlot => 0x12
           | .alreadyVacant => 0x13
           | .wrongState => 0x14
           | .linkOff => 0x15
           | .badLocalPages => 0x16
           | .unknownAction => 0x17) ∧
       (∀ k : Fin 4, s.readRegister (BitVec.ofNat 6 (6 + k.val)) = s.win.args[k.val]) ∧
       s.readRegister 0x0A =
         (match s.win.area with
           | .module => 0
           | .localPage => 1
           | .accept => 2
           | .classFilter => 3
           | .pages => 4
           | .staging => 5
           | .completion => 6
           | .notice => 7
           | .deferred => 8
           | .params => 9) ∧
       s.readRegister 0x0B = s.win.widx ∧ s.readRegister 0x0C = BitVec.ofNat 8 s.win.offset ∧
       s.readRegister 0x0E = BitVec.ofNat 8 s.ce.queue.length ∧
       s.readRegister 0x0F = BitVec.ofNat 8 s.ce.completions.length ∧
       s.readRegister 0x10 = BitVec.ofNat 8 s.nq.notices.length ∧
       s.readRegister 0x11 = BitVec.ofNat 8 s.mu.queue.length ∧
       ((∀ d ∈ s.mu.queue, d.decision ≠ none) → s.readRegister 0x12 = 0xFF) ∧
       (∀ before d after, s.mu.queue = before ++ d :: after → (∀ x ∈ before, x.decision ≠ none) →
         d.decision = none →
         s.readRegister 0x12 = 0#1 ++ s.mu.handles[d.handle.val].generation ++ BitVec.ofNat 3 d.handle.val) ∧
       s.readRegister 0x13 =
         BitVec.ofNat 8 (96 - ((List.finRange 30).map fun i => (s.entry i).pages.length).sum)) ∧
  ∀ (address : BitVec 6) (s : State), s.pins.resetn = .low → s.readRegister address = 0

/-! ## Notices -/

/-- A notice posted while the queue holds fewer than 32 is appended with MSCOUNT as its timestamp; one posted while it
holds 32 is discarded and counted, the count stopping at 255. POP_NOTICE removes the head; with a lost count above 0 the
freed place is filled by NOTICES_LOST and the count cleared; with the queue empty nothing changes and the result is EMPTY. -/
def Obligations.NoticesPostedAndPopped : Prop :=
  (∀ (kind : NoticeKind) (slot detail : Byte) (s : State),
      (s.nq.notices.length < 32 →
        post kind slot detail s =
          { s with nq := { s.nq with notices := s.nq.notices ++ [⟨kind, slot, detail, s.sched.mscount⟩] } }) ∧
        (32 ≤ s.nq.notices.length →
          post kind slot detail s = { s with nq := { s.nq with lost := min (s.nq.lost + 1) 255 } })) ∧
    ∀ s : State, s.Running →
      (s.nq.notices = [] → exec .popNotice s = .next (s.acted 0x21 .empty)) ∧
        (∀ n rest, s.nq.notices = n :: rest → s.nq.lost = 0 →
          exec .popNotice s = .next (State.acted { s with nq := { notices := rest, lost := 0 } } 0x21 .done)) ∧
        ∀ n rest, s.nq.notices = n :: rest → 0 < s.nq.lost →
          exec .popNotice s = .next
            (State.acted
              { s with nq :=
                { notices := rest ++ [⟨.noticesLost, 0, BitVec.ofNat 8 s.nq.lost, s.sched.mscount⟩], lost := 0 } }
              0x21 .done)

/-! ## Commands and completions -/

/-- SUBMIT names the first check that fails, in the order of R109, and then changes nothing but ACT and ARES; otherwise the
command joins the end of the queue at the next place in acceptance order with its remaining deadline set. -/
def Obligations.Submit : Prop :=
  ∀ s : State, s.Running →
    ((s.win.staging.target = 0 ∨ 30 < s.win.staging.target.toNat) →
      exec .submit s = .next (s.acted 0x10 .badTarget)) ∧
    ∀ i : Slot, s.win.staging.target = slotByte i →
      (24 < s.win.staging.length.toNat → exec .submit s = .next (s.acted 0x10 .badLength)) ∧
      (s.win.staging.length.toNat ≤ 24 → 4095 < s.win.staging.deadline.toNat →
        exec .submit s = .next (s.acted 0x10 .badDeadline)) ∧
      (s.win.staging.length.toNat ≤ 24 → s.win.staging.deadline.toNat ≤ 4095 → 16 ≤ s.ce.queue.length →
        exec .submit s = .next (s.acted 0x10 .queueFull)) ∧
      (s.win.staging.length.toNat ≤ 24 → s.win.staging.deadline.toNat ≤ 4095 → s.ce.queue.length < 16 →
        exec .submit s = .next
          (State.acted
            { s with ce :=
              { s.ce with
                queue := s.ce.queue ++
                  [{ held :=
                      { cmd :=
                          { target := i, code := s.win.staging.code, tag := s.win.staging.tag
                            payload := s.win.staging.payload.toList.take s.win.staging.length.toNat
                            deadline := s.win.staging.deadline.toNat }
                        place := s.ce.nextPlace
                        remaining :=
                          if s.win.staging.deadline = 0 then none else some s.win.staging.deadline.toNat }
                     settled := none }]
                nextPlace := s.ce.nextPlace + 1 } }
            0x10 .accepted))

/-- CANCEL takes the oldest command, in acceptance order, among the queued unsettled, in-flight and outstanding ones
that carry the tag in ARG0: a queued one is settled CANCELLED with result REMOVED, an in-flight one gets its cancel
mark with result AT_END, an outstanding one is emptied with a CANCELLED record and result CANCELLED. With none found
the result is NOT_FOUND and nothing else changes. -/
def Obligations.Cancel : Prop :=
  ∀ s : State, s.Running →
    ((∀ h ∈ s.heldCommands, h.held.cmd.tag ≠ s.win.args[0]) →
      exec .cancel s = .next (s.acted 0x11 .notFound)) ∧
    ∀ h ∈ s.heldCommands, h.held.cmd.tag = s.win.args[0] →
      (∀ x ∈ s.heldCommands, x.held.cmd.tag = s.win.args[0] → x ≠ h → h.held.place < x.held.place) →
      (∀ q, h = .queued q →
        exec .cancel s = .next
          (State.acted (settle (fun x => x.held.place == q.held.place) .cancelled s) 0x11 .removed)) ∧
      (∀ f, h = .inFlight f →
        exec .cancel s = .next
          (State.acted
            { s with ce :=
              { s.ce with
                inFlight := some { f with marks := if .cancel ∈ f.marks then f.marks else f.marks ++ [.cancel] } } }
            0x11 .atEnd)) ∧
      (∀ i o, h = .outstanding i o →
        exec .cancel s = .next
          (State.acted
            { s with
              table := s.table.set i.val ((s.entry i).setOutstanding none)
              ce :=
                { s.ce with completions := s.ce.completions ++ [⟨o.held.cmd.tag, o.held.cmd.target, o.held.cmd.code,
                    .cancelled, 0, []⟩] } }
            0x11 .cancelled))

/-- Settling marks the picked unsettled commands, and then as many settled commands as the reservation leaves room for leave the
queue in queue order, each with a record of its status, detail 0 and no data; nothing outside the command engine changes.
POP_COMPLETION removes the head record, and a settled command that waits takes the place it frees; with the queue empty
nothing changes and the result is EMPTY. -/
def Obligations.SettlingAndPopCompletion : Prop :=
  (∀ (pick : QueuedCommand → Bool) (status : CompletionStatus) (s : State),
     let marked := s.ce.queue.map fun q =>
       if q.settled = none ∧ pick q = true then { q with settled := some status } else q
     let room := 16 - s.reservation
     let waiting := marked.filter fun q => q.settled.isSome
     ∃ queue : List QueuedCommand,
       settle pick status s =
           { s with ce :=
             { s.ce with
               queue := queue
               completions := s.ce.completions ++
                 (waiting.take room).map fun q =>
                   ⟨q.held.cmd.tag, q.held.cmd.target, q.held.cmd.code, q.settled.getD .ok, 0, []⟩ } } ∧
         queue.Sublist marked ∧ queue.filter (fun q => q.settled.isNone) = marked.filter (fun q => q.settled.isNone) ∧
           queue.filter (fun q => q.settled.isSome) = waiting.drop room) ∧
  (∀ s : State, s.Running →
     (s.ce.completions = [] → exec .popCompletion s = .next (s.acted 0x12 .empty)) ∧
     (∀ c rest, s.ce.completions = c :: rest → (∀ q ∈ s.ce.queue, q.settled = none) →
       exec .popCompletion s = .next
         (State.acted { s with ce := { s.ce with completions := rest } } 0x12 .done)) ∧
     ∀ c rest before q after status, s.ce.completions = c :: rest → s.reservation = 16 →
       s.ce.queue = before ++ q :: after → (∀ x ∈ before, x.settled = none) → q.settled = some status →
       exec .popCompletion s = .next
         (State.acted
           { s with ce :=
             { s.ce with
               queue := before ++ after
               completions := rest ++ [⟨q.held.cmd.tag, q.held.cmd.target, q.held.cmd.code, status, 0, []⟩] } }
           0x12 .done))

/-- COMMAND_EXPIRY: every outstanding command whose remaining deadline is 0 ends EXPIRED, each with one record, their
records coming first and in acceptance order; an in-flight command's expired mark is set; every queued unsettled one
whose remaining deadline is 0 is settled EXPIRED in its place, and then the settled commands take what room the
reservation leaves: as many as it leaves room for leave the queue in queue order, each with one record of its status,
and every other command stays in its place. The reservation count is the same after the outstanding ones have ended,
since each record takes its command's reserved place. Nothing else changes (that one command takes all that have fallen
is the model's choice, log 18). -/
def Obligations.CommandExpiry : Prop :=
  ∀ s : State, s.Running →
    let marked := s.ce.queue.map fun q =>
      if q.settled = none ∧ q.held.remaining = some 0 then { q with settled := some .expired } else q
    let room := 16 - s.reservation
    let waiting := marked.filter fun q => q.settled.isSome
    ∃ (t : State) (ended : List (Slot × Outstanding)),
      exec .commandExpiry s = .next t ∧
        (ended.map Prod.fst).Nodup ∧ ended.Pairwise (fun a b => a.2.held.place ≤ b.2.held.place) ∧
        (∀ i o, (i, o) ∈ ended ↔ (s.entry i).outstanding? = some o ∧ o.held.remaining = some 0) ∧
        t.ce.completions =
          s.ce.completions ++
              (ended.map fun x =>
                ⟨x.2.held.cmd.tag, x.2.held.cmd.target, x.2.held.cmd.code, .expired, 0, []⟩) ++
            ((waiting.take room).map fun q =>
              ⟨q.held.cmd.tag, q.held.cmd.target, q.held.cmd.code, q.settled.getD .expired, 0, []⟩) ∧
        t.ce.queue.Sublist marked ∧
        t.ce.queue.filter (fun q => q.settled.isNone) = marked.filter (fun q => q.settled.isNone) ∧
        t.ce.queue.filter (fun q => q.settled.isSome) = waiting.drop room ∧
        t.ce.inFlight = s.ce.inFlight.map (fun f =>
          if f.held.remaining = some 0 ∧ .expired ∉ f.marks then { f with marks := f.marks ++ [.expired] } else f) ∧
        (∀ i, t.entry i =
          if (s.entry i).outstanding?.any (fun o => o.held.remaining == some 0) then
            (s.entry i).setOutstanding none
          else s.entry i) ∧
        t.pins = s.pins ∧ t.win = s.win ∧ t.px = s.px ∧ t.link = s.link ∧ t.sched = s.sched ∧ t.mu = s.mu ∧
          t.nq = s.nq ∧ t.pending = s.pending ∧ t.ce.nextPlace = s.ce.nextPlace

/-- A choice that reaches the command class starts the oldest command whose target is ACTIVE with no hold, nothing
outstanding and no verdict owed, that has no older unsettled command to its target before it, while the reservation is
below 16: the command leaves the queue and is in flight with no mark, the target's sequence bit is inverted, and the
COMMAND call with the new bit is the current call on its first attempt. -/
def Obligations.CommandStart : Prop :=
  ∀ (s : State) (before after : List QueuedCommand) (q : QueuedCommand) (d : ActiveData),
    s.Running → s.link.state = .idle → s.link.stopPending = false →
    (∀ i, (s.entry i).releaseOwed = false ∧ (s.entry i).context? = none ∧ (s.entry i).standingIs .overdue = false) →
    (∀ i ∈ s.sched.owed, (s.entry i).active? = none) →
    s.ce.queue = before ++ q :: after → q.settled = none →
    (∀ x ∈ before, x.held.place ≠ q.held.place ∧
      (x.settled ≠ none ∨ (s.entry x.held.cmd.target).active? = none ∨ (s.entry x.held.cmd.target).hold ≠ 0 ∨
        (s.entry x.held.cmd.target).outstanding? ≠ none ∨ (s.entry x.held.cmd.target).verdictOwed ≠ none)) →
    (s.entry q.held.cmd.target).active? = some d → d.outstanding = none →
    (s.entry q.held.cmd.target).hold = 0 → (s.entry q.held.cmd.target).verdictOwed = none → s.reservation < 16 →
    exec .callChoice s = .next
      { s with
        table := s.table.set q.held.cmd.target.val
          { s.entry q.held.cmd.target with seqBit := !(s.entry q.held.cmd.target).seqBit }
        ce := { s.ce with queue := before ++ after, inFlight := some ⟨q.held, []⟩ }
        link :=
          { s.link with
            state := .sending, activity := .transmitting, attempt := 1, window := none
            current := some
              { cls := .command, slot := q.held.cmd.target, kind := .command
                address := BitVec.ofNat 5 (q.held.cmd.target.val + 1), seq := !(s.entry q.held.cmd.target).seqBit
                payload :=
                  q.held.cmd.code :: BitVec.ofNat 8 q.held.cmd.payload.length :: q.held.cmd.payload } } }

/-- The end of a COMMAND exchange (Tables 5-3 and 5-4): RESULT and REFUSED stand whatever the marks say; WORKING with a
mark gives the status of the mark set first; WORKING without a mark becomes outstanding in an ACTIVE entry, and ends
RENEGOTIATED in a NEGOTIATING and DETACHED in any other; SILENCE and GARBLE end NO_REPLY, with a miss after it in an ACTIVE
entry only. A reply clears the misses of an ACTIVE entry first. -/
def Obligations.CommandExchangeEnd : Prop :=
  ∀ (i : Instr) (c : Call) (o : ExchangeOutcome) (s : State) (f : InFlight),
    ExchangeEnds i c o s → c.kind = .command → s.ce.inFlight = some f →
    let k := c.slot
    let heard := if (s.entry k).isActive then s.updEntry k (fun e => { e with missCount := 0 }) else s
    let record := fun (u : State) (status : CompletionStatus) (detail : Byte) (data : List Byte) =>
      { u with ce :=
        { u.ce with
          inFlight := none
          completions := u.ce.completions ++
            [⟨f.held.cmd.tag, f.held.cmd.target, f.held.cmd.code, status, detail, data⟩] } }
    (∀ data q, o = .reply (.result data) q → exec i s = .next (finishExchange (record heard .ok 0 data))) ∧
      (∀ reason q, o = .reply (.refused reason) q →
        exec i s = .next (finishExchange (record heard .refused reason []))) ∧
      (∀ q rest, o = .reply .working q → f.marks = .cancel :: rest →
        exec i s = .next (finishExchange (record heard .cancelled 0 []))) ∧
      (∀ q rest, o = .reply .working q → f.marks = .expired :: rest →
        exec i s = .next (finishExchange (record heard .expired 0 []))) ∧
      (∀ q d, o = .reply .working q → f.marks = [] → (s.entry k).state = .active d →
        exec i s = .next (finishExchange
          { s with
            ce := { s.ce with inFlight := none }
            table := s.table.set k.val
              { s.entry k with
                missCount := 0, state := .active { d with outstanding := some ⟨f.held, c.seq⟩ } } })) ∧
      (∀ q ctx, o = .reply .working q → f.marks = [] → (s.entry k).state = .negotiating ctx →
        exec i s = .next (finishExchange (record s .renegotiated 0 []))) ∧
      (∀ q, o = .reply .working q → f.marks = [] →
        (s.entry k).state = .vacant ∨ (s.entry k).state = .lost ∨ (∃ x, (s.entry k).state = .failed x) →
        exec i s = .next (finishExchange (record s .detached 0 []))) ∧
      ((o = .silence ∨ o = .garble) → (s.entry k).isActive = true →
        exec i s = .next (finishExchange (countMiss k (record s .noReply 0 [])))) ∧
      ((o = .silence ∨ o = .garble) → (s.entry k).isActive = false →
        exec i s = .next (finishExchange (record s .noReply 0 [])))

/-! ## Verdicts and messages -/

/-- Making a verdict owed sets the entry's verdict owed and last verdict and puts the slot at the end of the owed
order unless it is listed already (R143, R93). The classes the controller handles itself, for a new message, after the
MESSAGE_GAP of one whose number does not follow the last (R139, R141, R142, R144): HOLD sets hold remaining and owes
ACCEPT, or without data owes REJECT MALFORMED and posts MESSAGE_REJECTED; LATE_RESULT completes the outstanding
command it matches OK and owes ACCEPT, or else owes REJECT STALE and posts LATE_STALE; RENEGOTIATE owes ACCEPT with a
renegotiation request. -/
def Obligations.ControllerMessageClasses : Prop :=
  (∀ (k : Slot) (v : Verdict) (request : Bool) (s : State),
     oweVerdict k v request s =
       { s with
         table := s.table.set k.val
           { s.entry k with verdictOwed := some ⟨v, request⟩, lastVerdict := some v }
         sched := { s.sched with owed := if k ∈ s.sched.owed then s.sched.owed else s.sched.owed ++ [k] } }) ∧
  (∀ (i : Instr) (c : Call) (s : State) (cls : Byte) (number : BitVec 4) (data : List Byte) (q : Bool)
     (d : ActiveData),
     ExchangeEnds i c (.reply (.message cls number data) q) s → c.kind = .fetch →
     (s.entry c.slot).state = .active d → (s.entry c.slot).lastNumber ≠ some number →
     let told :=
       match (s.entry c.slot).lastNumber with
       | none => s
       | some n => if number = n + 1 then s else post .messageGap (slotByte c.slot) (0#4 ++ number) s
     let judged := { s.entry c.slot with missCount := 0, lastNumber := some number }
     let s1 := told.setEntry c.slot judged
     (∀ b rest, cls = 1 → data = b :: rest →
       exec i s = .next (finishExchange
         (oweVerdict c.slot ⟨number, .accept, 0⟩ false
           (told.setEntry c.slot { judged with hold := b })))) ∧
     (cls = 1 → data = [] →
       exec i s = .next (finishExchange
         (post .messageRejected (slotByte c.slot) 1 (oweVerdict c.slot ⟨number, .reject, 0xF0⟩ false s1)))) ∧
     (∀ o, cls = 2 → d.outstanding = some o → o.seq = q → data.length ≤ 24 →
       exec i s = .next (finishExchange
         (oweVerdict c.slot ⟨number, .accept, 0⟩ false
           { told with
             table := s.table.set c.slot.val { judged with state := .active { d with outstanding := none } }
             ce :=
               { s.ce with completions := s.ce.completions ++
                 [⟨o.held.cmd.tag, o.held.cmd.target, o.held.cmd.code, .ok, 0, data⟩] } }))) ∧
     (cls = 2 → (∀ o, d.outstanding = some o → o.seq ≠ q ∨ 24 < data.length) →
       exec i s = .next (finishExchange
         (post .lateStale (slotByte c.slot) 0 (oweVerdict c.slot ⟨number, .reject, 0xF1⟩ false s1)))) ∧
     (cls = 3 →
       exec i s = .next (finishExchange (oweVerdict c.slot ⟨number, .accept, 0⟩ true s1))))

/-- VERDICT, judged in the order of Table 6-3: BAD_REASON for a verdict or a reason out of range, NO_ENTRY for a
handle above 7 or another generation, TAKEN for an OPEN entry, TOO_LATE and ALREADY_DECIDED for an entry decided by
the timeout or by software, and for a free handle the result of its end-cause. Every result but TAKEN changes nothing
but ACT and ARES; TAKEN decides the OPEN entry by SOFTWARE with the verdict and reason given (reason 0 for ACCEPT) and
makes that verdict owed to its module. -/
def Obligations.VerdictResults : Prop :=
  ∀ s : State, s.Running →
    let code := s.win.args[2]
    let reason := s.win.args[3]
    let bad := (code ≠ 1 ∧ code ≠ 2) ∨ (code = 2 ∧ (reason = 0 ∨ 0xF0 ≤ reason.toNat))
    (bad → exec .verdict s = .next (s.acted 0x20 .badReason)) ∧
    (¬bad → 8 ≤ s.win.args[0].toNat → exec .verdict s = .next (s.acted 0x20 .noEntry)) ∧
    ∀ h : Handle, s.win.args[0] = handleByte h → ¬bad →
      let record := s.mu.handles[h.val]
      (s.win.args[1] ≠ record.generation.setWidth 8 → exec .verdict s = .next (s.acted 0x20 .noEntry)) ∧
      (s.win.args[1] = record.generation.setWidth 8 →
        (∀ d, s.deferredAt h = some d → d.decision = none →
          exec .verdict s = .next
            (State.acted
              { s with
                mu :=
                  { s.mu with
                    queue := s.mu.queue.map fun x =>
                      if x.handle = h then
                        { x with
                          decision := some
                            ⟨if code = 1 then .accept else .reject, if code = 1 then 0 else reason, .software⟩ }
                      else x }
                table := s.table.set d.slot.val
                  { s.entry d.slot with
                    verdictOwed := some
                      ⟨⟨d.number, if code = 1 then .accept else .reject, if code = 1 then 0 else reason⟩, false⟩
                    lastVerdict := some
                      ⟨d.number, if code = 1 then .accept else .reject, if code = 1 then 0 else reason⟩ }
                sched :=
                  { s.sched with owed :=
                    if d.slot ∈ s.sched.owed then s.sched.owed else s.sched.owed ++ [d.slot] } }
              0x20 .taken)) ∧
        (∀ d x, s.deferredAt h = some d → d.decision = some x → x.decidedBy = .timeout →
          exec .verdict s = .next (s.acted 0x20 .tooLate)) ∧
        (∀ d x, s.deferredAt h = some d → d.decision = some x → x.decidedBy = .software →
          exec .verdict s = .next (s.acted 0x20 .alreadyDecided)) ∧
        (s.deferredAt h = none →
          (record.endCause = .timeout → exec .verdict s = .next (s.acted 0x20 .tooLate)) ∧
            (record.endCause = .software → exec .verdict s = .next (s.acted 0x20 .alreadyDecided)) ∧
            (record.endCause = .gone → exec .verdict s = .next (s.acted 0x20 .gone)) ∧
            (record.endCause = .none → exec .verdict s = .next (s.acted 0x20 .noEntry))))

/-- VERDICT_TIMEOUT: every OPEN entry whose age a tick has brought to the timeout becomes DECIDED by TIMEOUT with
REJECT TIMEOUT, that verdict is owed to its module, and VERDICT_TIMEOUT is posted for each, all in queue order: the
slots join the end of the owed order one after another, one that is listed already staying where it is. Nothing else
changes (the mark a tick sets, and that one command takes all of them, are the model's choices, logs 3 and 18). -/
def Obligations.VerdictTimeout : Prop :=
  ∀ s : State, s.Running → (s.mu.queue.map Deferred.handle).Nodup → (s.mu.queue.map Deferred.slot).Nodup →
    let falls := fun d : Deferred => d.timeoutReached && d.decision.isNone
    ∃ t, exec .verdictTimeout s = .next t ∧
      t.mu = { s.mu with
        queue := s.mu.queue.map fun d =>
          if falls d then { d with decision := some ⟨.reject, 0xF2, .timeout⟩ } else d } ∧
      (∀ d ∈ s.mu.queue, falls d = true →
        t.entry d.slot =
          { s.entry d.slot with
            verdictOwed := some ⟨⟨d.number, .reject, 0xF2⟩, false⟩
            lastVerdict := some ⟨d.number, .reject, 0xF2⟩ }) ∧
      (∀ k, (∀ d ∈ s.mu.queue, falls d = true → d.slot ≠ k) → t.entry k = s.entry k) ∧
      t.nq = ((s.mu.queue.filter falls).foldl
        (fun u d => post .verdictTimeout (slotByte d.slot) (handleByte d.handle) u) s).nq ∧
      t.sched = { s.sched with
        owed := (s.mu.queue.filter falls).foldl (fun l d => if d.slot ∈ l then l else l ++ [d.slot]) s.sched.owed } ∧
      t.pins = s.pins ∧ t.win = s.win ∧ t.px = s.px ∧ t.link = s.link ∧ t.ce = s.ce ∧ t.pending = s.pending

/-- A message of class 0 or of class 4 to 15 that a FETCH exchange brings an ACTIVE entry as new is not handled: REJECT
MALFORMED (0xF0) is made owed and MESSAGE_REJECTED is posted with the slot and the class, after any MESSAGE_GAP; the last
message number and the miss count are set as for any new message, and nothing else changes. -/
def Obligations.ReservedMessageClass : Prop :=
  ∀ (i : Instr) (c : Call) (s : State) (cls : Byte) (number : BitVec 4) (data : List Byte) (q : Bool)
    (d : ActiveData),
    ExchangeEnds i c (.reply (.message cls number data) q) s → c.kind = .fetch →
    (s.entry c.slot).state = .active d → (s.entry c.slot).lastNumber ≠ some number →
    cls = 0 ∨ (4 ≤ cls.toNat ∧ cls.toNat ≤ 15) →
    exec i s = .next (finishExchange
      (post .messageRejected (slotByte c.slot) cls
        { (match (s.entry c.slot).lastNumber with
            | none => s
            | some n => if number = n + 1 then s else post .messageGap (slotByte c.slot) (0#4 ++ number) s) with
          table := s.table.set c.slot.val
            { s.entry c.slot with
              missCount := 0
              lastNumber := some number
              verdictOwed := some ⟨⟨number, .reject, 0xF0⟩, false⟩
              lastVerdict := some ⟨number, .reject, 0xF0⟩ }
          sched :=
            { s.sched with owed := if c.slot ∈ s.sched.owed then s.sched.owed else s.sched.owed ++ [c.slot] } }))

/-- A new message of class 16 to 255 becomes an OPEN deferred entry at the end of the queue, on the lowest free
handle, whose generation rises by 1 and whose end-cause becomes NONE; no verdict is owed and no notice posted but the
MESSAGE_GAP of a number that does not follow the last. A repeat makes the last verdict owed again without a
renegotiation request and is not judged by its class. EMPTY clears fetch wanted. SILENCE and GARBLE are a miss; an
entry that is not ACTIVE discards the outcome. -/
def Obligations.SoftwareMessagesAndRepeats : Prop :=
  (∀ (i : Instr) (c : Call) (s : State) (r : Reply) (q : Bool) (d : ActiveData),
     ExchangeEnds i c (.reply r q) s → c.kind = .fetch → (s.entry c.slot).state = .active d →
     (∀ cls number data h, r = .message cls number data → 16 ≤ cls.toNat →
       (s.entry c.slot).lastNumber ≠ some number →
       (∀ x ∈ s.mu.queue, x.handle ≠ h) → (∀ g, g < h → ∃ x ∈ s.mu.queue, x.handle = g) →
       exec i s = .next (finishExchange
         { (match (s.entry c.slot).lastNumber with
             | none => s
             | some n => if number = n + 1 then s else post .messageGap (slotByte c.slot) (0#4 ++ number) s) with
           table := s.table.set c.slot.val { s.entry c.slot with missCount := 0, lastNumber := some number }
           mu :=
             { s.mu with
               queue := s.mu.queue ++
                 [{ handle := h, slot := c.slot, cls := cls, number := number, data := data, decision := none, age := 0
                    timeoutReached := false }]
               handles := s.mu.handles.set h.val ⟨s.mu.handles[h.val].generation + 1, .none⟩ } })) ∧
     (∀ cls number data v, r = .message cls number data → (s.entry c.slot).lastNumber = some number →
       (s.entry c.slot).lastVerdict = some v →
       exec i s = .next (finishExchange
         (oweVerdict c.slot v false
           (s.setEntry c.slot { s.entry c.slot with missCount := 0 })))) ∧
     (r = .empty →
       exec i s = .next (finishExchange
         (s.setEntry c.slot { s.entry c.slot with missCount := 0, fetchWanted := false })))) ∧
  ∀ (i : Instr) (c : Call) (o : ExchangeOutcome) (s : State), ExchangeEnds i c o s → c.kind = .fetch →
    (∀ d, (s.entry c.slot).state = .active d → (o = .silence ∨ o = .garble) →
      exec i s = .next (finishExchange (countMiss c.slot s))) ∧
    ((s.entry c.slot).active? = none → exec i s = .next (finishExchange s))

/-- The end of a VERDICT exchange (R146, R20). ACK clears the verdict owed of an ACTIVE or NEGOTIATING entry and frees
the slot's DECIDED deferred entry with its decided-by as end-cause; in an ACTIVE entry it clears the misses, and a
verdict that carried a renegotiation request, where no deferred entry is there to free, then begins a renegotiation
with cause 1. SILENCE and GARBLE are a miss in an ACTIVE entry and nothing in a NEGOTIATING one. Any other entry
discards the outcome. -/
def Obligations.VerdictExchangeEnd : Prop :=
  ∀ (i : Instr) (c : Call) (o : ExchangeOutcome) (s : State), ExchangeEnds i c o s → c.kind = .verdict →
    let k := c.slot
    let carried := fun (e : Entry) (mu : MessageUnit) =>
      { s with
        table := s.table.set k.val { e with verdictOwed := none }
        sched := { s.sched with owed := s.sched.owed.filter fun j => j != k }
        mu := mu }
    let freed := fun (x : Deferred) (dec : Decision) =>
      { s.mu with
        queue := s.mu.queue.filter fun y => y.handle != x.handle
        handles := s.mu.handles.set x.handle.val
          ⟨s.mu.handles[x.handle.val].generation,
            match dec.decidedBy with
            | .software => .software
            | .timeout => .timeout⟩ }
    (∀ d v q, (s.entry k).state = .active d → (s.entry k).verdictOwed = some v → v.renegotiation = false →
      o = .reply .ack q →
      (s.deferredOf k = none →
        exec i s = .next (finishExchange (carried { s.entry k with missCount := 0 } s.mu))) ∧
      (∀ x dec, s.deferredOf k = some x → x.decision = some dec →
        exec i s = .next (finishExchange (carried { s.entry k with missCount := 0 } (freed x dec))))) ∧
    (∀ d v q, (s.entry k).state = .active d → (s.entry k).verdictOwed = some v → v.renegotiation = true →
      o = .reply .ack q → s.deferredOf k = none →
      exec i s = .next (finishExchange (renegotiate k 1 (carried { s.entry k with missCount := 0 } s.mu)))) ∧
    (∀ ctx v q, (s.entry k).state = .negotiating ctx → (s.entry k).verdictOwed = some v → o = .reply .ack q →
      (s.deferredOf k = none → exec i s = .next (finishExchange (carried (s.entry k) s.mu))) ∧
      (∀ x dec, s.deferredOf k = some x → x.decision = some dec →
        exec i s = .next (finishExchange (carried (s.entry k) (freed x dec))))) ∧
    (∀ d, (s.entry k).state = .active d → (o = .silence ∨ o = .garble) →
      exec i s = .next (finishExchange (countMiss k s))) ∧
    (∀ ctx, (s.entry k).state = .negotiating ctx → (o = .silence ∨ o = .garble) →
      exec i s = .next (finishExchange s)) ∧
    ((s.entry k).state = .vacant ∨ (s.entry k).state = .lost ∨ (∃ f, (s.entry k).state = .failed f) →
      exec i s = .next (finishExchange s))

/-! ## Frames -/

/-- The line and the frames. A byte is ten bit times: a low start bit, the data bits with the least significant first,
a high stop bit. TXD carries the frame of the current call byte after byte, with its header, payload and CRC, and is
high after it and whenever TXEN is low; the bit and byte times are those of Table 3-2. Bytes sent are the bytes
received, without a framing error; a start bit that is high at its middle begins no byte, and a stop bit sampled low,
in a break too, is a framing error (the samples come at the frame's end, log 28). The CRC is the register of R190 after
the bytes, preset to 0xFFFF. The replies a call permits are those
of Table 3-3, with the kind codes, the payload lengths, the value limits and the place of each field that Table 10-2
gives. Every such reply, built as a frame by R67 and R190, is classified REPLY with the same reply and sequence bit. -/
def Obligations.BuiltReplyIsRead : Prop :=
  ((∀ b : Byte, (serial b).getLsbD 0 = false ∧ (∀ k, k < 8 → (serial b).getLsbD (k + 1) = b.getLsbD k) ∧
      (serial b).getLsbD 9 = true) ∧
    (∀ (s : State) (c : Call), s.link.state ≠ .broadcasting → s.link.activity = .transmitting →
      s.link.current = some c →
      let body :=
        (0#1 ++ BitVec.ofBool c.seq ++ 0#1 ++ c.address) ::
          (match c.kind with
            | .census => 1
            | .page => 2
            | .settle => 3
            | .poll => 4
            | .fetch => 5
            | .verdict => 6
            | .command => 7
            | .release => 8) :: BitVec.ofNat 8 c.payload.length :: c.payload
      s.txFrame = some (0xC3 :: (body ++ [(crc body).extractLsb' 0 8, (crc body).extractLsb' 8 8]))) ∧
    (∀ (s : State) (bytes : List Byte), s.txFrame = some bytes →
      (∀ (n k : Nat) (b : Byte), bytes[n]? = some b → k < 10 →
        s.txd (10 * n + k) = if (serial b).getLsbD k = true then .high else .low) ∧
      ∀ m, 10 * bytes.length ≤ m → s.txd m = .high) ∧
    (∀ (s : State) (m : Nat), s.link.activity ≠ .transmitting → s.txd m = .high) ∧
    (∀ s : State, s.link.rate ≠ 3 →
      s.bitMicros = some (if s.link.rate = 0 then 8 else if s.link.rate = 1 then 4 else 2) ∧
        s.byteMicros = some (if s.link.rate = 0 then 80 else if s.link.rate = 1 then 40 else 20)) ∧
    (∀ bytes : List Byte,
      receivedBytes (bytes.map serial) = bytes ∧ anyFramingError (bytes.map serial) = false) ∧
    (∀ (c : Samples) (l : List Samples), c.getLsbD 0 = true →
      receivedBytes (c :: l) = receivedBytes l ∧ anyFramingError (c :: l) = anyFramingError l) ∧
    (∀ (c : Samples) (l : List Samples), c ∈ l → c.getLsbD 0 = false → c.getLsbD 9 = false →
      anyFramingError l = true) ∧
    crc [] = 0xFFFF ∧
    ∀ (l : List Byte) (b : Byte),
      crc (l ++ [b]) =
        (List.range 8).foldl (fun (r : BitVec 16) _ => if r.msb = true then (r <<< 1) ^^^ 0x1021 else r <<< 1)
          (crc l ^^^ (b ++ 0#8))) ∧
  (∀ (call : CallKind) (kind : BitVec 4) (payload : List Byte) (r : Reply),
    permittedReply call kind payload = some r ↔
      (call = .census ∧ kind = 1 ∧ ∃ slot cls, payload = [slot, 0#4 ++ cls] ∧ r = .hello slot cls) ∨
      (call = .page ∧ kind = 2 ∧ ∃ p : Page, r = .page p ∧
        payload =
          [BitVec.ofBool p.fresh ++ BitVec.ofBool p.comply ++ BitVec.ofBool p.ackToggle ++ BitVec.ofBool p.ackValid ++
              BitVec.ofBool p.toggle ++ BitVec.ofBool p.more ++
              (match p.kind with
                | .base => 0#2
                | .message => 1#2
                | .unformatted => 2#2
                | .null => 3#2),
            p.body.b0, p.body.b1, p.body.b2, p.body.b3]) ∨
      (call = .settle ∧ kind = 3 ∧ ∃ profile, payload = [profile] ∧ r = .settleAck profile) ∨
      (call = .poll ∧ kind = 4 ∧ ∃ record : StatusRecord, r = .status record ∧
        payload =
          [record.state, record.alarm, 0#4 ++ record.pending, record.r0, record.r1, record.r2, record.r3]) ∨
      (call = .fetch ∧ kind = 5 ∧ ∃ cls number data, data.length ≤ 28 ∧ r = .message cls number data ∧
        payload = cls :: (0#4 ++ number) :: BitVec.ofNat 8 data.length :: data) ∨
      (call = .fetch ∧ kind = 6 ∧ payload = [] ∧ r = .empty) ∨
      ((call = .verdict ∨ call = .release) ∧ kind = 3 ∧ payload = [] ∧ r = .ack) ∨
      (call = .command ∧ kind = 7 ∧ payload.length ≤ 24 ∧ r = .result payload) ∨
      (call = .command ∧ kind = 8 ∧ payload = [] ∧ r = .working) ∨
      (call = .command ∧ kind = 9 ∧ ∃ reason, reason ≠ 0 ∧ payload = [reason] ∧ r = .refused reason)) ∧
  ∀ (c : Call) (q : Bool) (kind : BitVec 4) (payload : List Byte) (r : Reply), payload.length ≤ 32 →
    permittedReply c.kind kind payload = some r →
    let body := (0#1 ++ BitVec.ofBool q ++ 1#1 ++ c.address) :: (0#4 ++ kind) :: BitVec.ofNat 8 payload.length :: payload
    classify c (0xC3 :: (body ++ [(crc body).extractLsb' 0 8, (crc body).extractLsb' 8 8])) false = .reply r q

/-- A received frame that fails a condition of R73 is classified GARBLE: a framing error, fewer than six bytes, a
first byte other than 0xC3, a length that does not fit the frame or is above 32, a CRC that differs, a call's
direction bit, another address, or a kind or payload that Table 3-3 does not permit. -/
def Obligations.BadFrameIsGarble : Prop :=
  ∀ (c : Call) (sync h1 h2 len lo hi : Byte) (payload : List Byte),
    (∀ bytes, classify c bytes true = .garble) ∧
      (∀ bytes, bytes.length < 6 → classify c bytes false = .garble) ∧
      ((sync ≠ 0xC3 ∨ len.toNat ≠ payload.length ∨ 32 < len.toNat ∨
          hi ++ lo ≠ crc (h1 :: h2 :: len :: payload) ∨ h1.getLsbD 5 = false ∨ h1.extractLsb' 0 5 ≠ c.address ∨
          permittedReply c.kind (h2.extractLsb' 0 4) payload = none) →
        classify c (sync :: h1 :: h2 :: len :: (payload ++ [lo, hi])) false = .garble)

/-! ## Census, page exchange and settle -/

/-- The end of a CENSUS exchange on a VACANT slot with census enable 1: a HELLO carrying the slot makes the entry NEGOTIATING
with the class, a fresh context and MODULE_FOUND; one carrying another slot, and a GARBLE, clear the census enable and post
SLOT_MISMATCH or SLOT_CONFLICT; SILENCE does nothing. On any other entry the outcome is discarded. -/
def Obligations.CensusExchangeEnd : Prop :=
  ∀ (i : Instr) (c : Call) (o : ExchangeOutcome) (s : State), ExchangeEnds i c o s → c.kind = .census →
    let k := c.slot
    ((s.entry k).state = .vacant → (s.entry k).censusEnable = true →
      (∀ cls q, o = .reply (.hello (slotByte k) cls) q →
        exec i s = .next (finishExchange (post .moduleFound (slotByte k) (0#4 ++ cls)
          (s.setEntry k
            { s.entry k with
              state := .negotiating
                { phase := .exchange, steps := 0, localIndex := 0, localDone := false, localToggle := false
                  moduleToggle := none, finalSeen := false, ack := none, argsLeft := 0, fresh := true }
              cls := some cls, seqBit := false, record := some ⟨0, 0⟩, fetchWanted := false, hold := 0 })))) ∧
      (∀ slot cls q, o = .reply (.hello slot cls) q → slot ≠ slotByte k →
        exec i s = .next (finishExchange (post .slotMismatch (slotByte k) slot
          (s.setEntry k { s.entry k with censusEnable := false })))) ∧
      (o = .garble →
        exec i s = .next (finishExchange (post .slotConflict (slotByte k) 0
          (s.setEntry k { s.entry k with censusEnable := false })))) ∧
      (o = .silence → exec i s = .next (finishExchange s))) ∧
    ((s.entry k).state ≠ .vacant ∨ (s.entry k).censusEnable = false → exec i s = .next (finishExchange s))

/-- The end of a SETTLE exchange: an ACK with the proposed profile makes the entry ACTIVE with it, its misses cleared, its
next poll due now, its standing DUE, its period in force the poll period and its alarm baseline 0, and posts NEGOTIATED after
any PAGES_DROPPED; an ACK with another value ends in PROFILE_DISAGREE, and SILENCE and GARBLE end in SILENT. An entry that
is not NEGOTIATING discards the outcome. -/
def Obligations.SettleExchangeEnd : Prop :=
  ∀ (i : Instr) (c : Call) (o : ExchangeOutcome) (s : State), ExchangeEnds i c o s → c.kind = .settle →
    let k := c.slot
    (∀ ctx p r q, (s.entry k).state = .negotiating ctx → ctx.phase = .settle p → (s.entry k).record = some r →
      o = .reply (.settleAck (BitVec.ofNat 8 p.val)) q →
      exec i s = .next (finishExchange (post .negotiated (slotByte k) (BitVec.ofNat 8 p.val)
        { (if r.dropped = 0 then s else post .pagesDropped (slotByte k) r.dropped s) with
          table := s.table.set k.val
            { s.entry k with
              missCount := 0
              state := .active
                { profile := p, nextDue := s.sched.mscount, standing := .due, period := (s.entry k).pollPeriod
                  alarmBaseline := 0, outstanding := none, dueReached := false, overdueReached := false } } }))) ∧
    (∀ ctx p b q, (s.entry k).state = .negotiating ctx → ctx.phase = .settle p → o = .reply (.settleAck b) q →
      b ≠ BitVec.ofNat 8 p.val → exec i s = .next (finishExchange (enterFailed k .profileDisagree s))) ∧
    (∀ ctx, (s.entry k).state = .negotiating ctx → (o = .silence ∨ o = .garble) →
      exec i s = .next (finishExchange (enterFailed k .silent s))) ∧
    ((s.entry k).context? = none → exec i s = .next (finishExchange s))

/-- A PAGE exchange that ends SILENCE or GARBLE ends the negotiation SILENT. In a step, whatever the first half has
made of the acknowledgement (FirstHalf): in the module's first page a kind other than BASE ends in PAGE_ORDER and
another class in CLASS_MISMATCH; a BASE page of the entry's class is stored as it arrived (log 11), its toggle is kept
and acknowledged with comply 1, and its more field 0 marks the module's final page. A repeated page changes nothing
but the step count and the fresh field, and at the twentieth step, the exchange not complete, ends in STEP_LIMIT. -/
def Obligations.PageExchangeEnd : Prop :=
  ∀ (i : Instr) (c : Call) (s : State) (ctx : Context), c.kind = .page → (s.entry c.slot).state = .negotiating ctx →
    let k := c.slot
    (∀ o, ExchangeEnds i c o s → (o = .silence ∨ o = .garble) →
      exec i s = .next (finishExchange (enterFailed k .silent s))) ∧
    ∀ p q r a r1, ExchangeEnds i c (.reply (.page p) q) s → (s.entry k).record = some r →
      FirstHalf s.px p ctx a r r1 →
      let e := { s.entry k with record := some r1 }
      let stepped := { a with steps := ctx.steps + 1, fresh := false }
      let incomplete := a.localDone = false ∨ ctx.finalSeen = false
      (ctx.moduleToggle = none → p.kind ≠ .base →
        exec i s = .next (finishExchange (enterFailed k .pageOrder (s.setEntry k e)))) ∧
      (∀ cls, ctx.moduleToggle = none → p.kind = .base → e.cls = some cls → p.body.b1.extractLsb' 0 4 ≠ cls →
        exec i s = .next (finishExchange (enterFailed k .classMismatch (s.setEntry k e)))) ∧
      (∀ cls, ctx.moduleToggle = none → p.kind = .base → e.cls = some cls → p.body.b1.extractLsb' 0 4 = cls →
        incomplete → ctx.steps + 1 < 20 →
        exec i s = .next (finishExchange
          (s.setEntry k
            { e with
              basePage := some p.body
              state := .negotiating
                { stepped with
                  moduleToggle := some p.toggle, ack := some ⟨p.toggle, true⟩
                  finalSeen := ctx.finalSeen || !p.more } }))) ∧
      (ctx.moduleToggle = some p.toggle → incomplete → ctx.steps + 1 < 20 →
        exec i s = .next (finishExchange (s.setEntry k { e with state := .negotiating stepped }))) ∧
      (ctx.moduleToggle = some p.toggle → incomplete → ctx.steps + 1 = 20 →
        exec i s = .next (finishExchange (enterFailed k .stepLimit (s.setEntry k e))))

/-- Entry into FAILED stores the fault code, drops the context, clears fetch wanted and the verdict owed, and posts
PAGES_DROPPED (count above 0), DEFERRED_GONE (a deferred entry) and NEGOTIATION_FAILED with the code, in that order; commands and
other entries are kept. A miss adds 1 to the miss count and below the limit changes nothing else; at the limit the
entry is LOST, with hold remaining 0 and fetch wanted and the owed verdict cleared: its outstanding command and then
its queued commands end MODULE_LOST, MODULE_LOST is posted, and its deferred entry leaves with end-cause GONE and
DEFERRED_GONE. -/
def Obligations.FailedAndLostEntries : Prop :=
  (∀ (k : Slot) (f : FaultCode) (s : State) (ctx : Context) (r : NegotiationRecord),
     (s.entry k).state = .negotiating ctx → (s.entry k).record = some r →
     let t := enterFailed k f s
     let code : Byte :=
       match f with
       | .silent => 1
       | .pageOrder => 2
       | .stepLimit => 3
       | .notComplied => 4
       | .noCommonProfile => 5
       | .moduleReported => 6
       | .profileDisagree => 7
       | .classMismatch => 8
     let s1 := if r.dropped = 0 then s else post .pagesDropped (slotByte k) r.dropped s
     t.entry k = { s.entry k with state := .failed f, fetchWanted := false, verdictOwed := none } ∧
       (∀ j, j ≠ k → t.entry j = s.entry j) ∧
       t.sched = { s.sched with owed := s.sched.owed.filter fun j => j != k } ∧
       (s.deferredOf k = none →
         t.mu = s.mu ∧ t.nq = (post .negotiationFailed (slotByte k) code s1).nq) ∧
       (∀ x, s.deferredOf k = some x →
         t.mu.queue = s.mu.queue.filter (fun y => y.handle != x.handle) ∧
           t.mu.handles = s.mu.handles.set x.handle.val ⟨s.mu.handles[x.handle.val].generation, .gone⟩ ∧
           t.nq = (post .negotiationFailed (slotByte k) code
             (post .deferredGone (slotByte k) (handleByte x.handle) s1)).nq) ∧
       t.pins = s.pins ∧ t.win = s.win ∧ t.px = s.px ∧ t.link = s.link ∧ t.ce = s.ce ∧ t.pending = s.pending) ∧
  (∀ (k : Slot) (s : State) (d : ActiveData), (s.entry k).state = .active d →
     ((s.entry k).missCount + 1 < s.sched.missLimit.toNat →
       countMiss k s = { s with table := s.table.set k.val { s.entry k with missCount := (s.entry k).missCount + 1 } }) ∧
     (s.sched.missLimit.toNat ≤ (s.entry k).missCount + 1 →
       let t := countMiss k s
       t.entry k =
           { s.entry k with
             state := .lost, hold := 0, fetchWanted := false, verdictOwed := none
             missCount := (s.entry k).missCount + 1 } ∧
         (∀ j, j ≠ k → t.entry j = s.entry j) ∧
         t.sched = { s.sched with owed := s.sched.owed.filter fun j => j != k } ∧
         t.ce =
           (settle (fun q => q.held.cmd.target == k) .moduleLost
             { s with
               table := s.table.set k.val ((s.entry k).setOutstanding none)
               ce :=
                 { s.ce with completions := s.ce.completions ++ d.outstanding.toList.map fun o =>
                     ⟨o.held.cmd.tag, o.held.cmd.target, o.held.cmd.code, .moduleLost, 0, []⟩ } }).ce ∧
         (s.deferredOf k = none →
           t.mu = s.mu ∧ t.nq = (post .moduleLost (slotByte k) 0 s).nq) ∧
         (∀ x, s.deferredOf k = some x →
           t.mu.queue = s.mu.queue.filter (fun y => y.handle != x.handle) ∧
             t.mu.handles[x.handle.val] = ⟨s.mu.handles[x.handle.val].generation, .gone⟩ ∧
             t.nq = (post .deferredGone (slotByte k) (handleByte x.handle) (post .moduleLost (slotByte k) 0 s)).nq) ∧
         t.pins = s.pins ∧ t.win = s.win ∧ t.px = s.px ∧ t.link = s.link ∧ t.pending = s.pending))

/-- The acknowledgement half of a step (R45): a matching acknowledgement of a local entry moves the local index on,
sets local done when the index reaches LPCOUNT and inverts the local toggle; of a local MESSAGE entry it records the
comply flag, and comply 0 for a required one ends in NOT_COMPLIED whatever page comes with it. A matching
acknowledgement of a NULL page inverts the toggle and leaves the local index, and local done is set after it, as it
was before or, where the list was shortened, by it. Where the half does not end the negotiation, the module's page is
here a repeat, so that nothing else acts; the statements about that page take the half as FirstHalf. -/
def Obligations.PageAcknowledged : Prop :=
  ∀ (i : Instr) (c : Call) (s : State) (ctx : Context) (p : Page) (q : Bool) (r : NegotiationRecord),
    ExchangeEnds i c (.reply (.page p) q) s → c.kind = .page → (s.entry c.slot).state = .negotiating ctx →
    (s.entry c.slot).record = some r → p.ackValid = true → p.ackToggle = ctx.localToggle →
    let k := c.slot
    let repeated := ctx.moduleToggle = some p.toggle ∧ ctx.finalSeen = false ∧ ctx.steps + 1 < 20
    (∀ (h : ctx.localIndex < 8) (l : LocalPage), ctx.localDone = false → ctx.localIndex < s.px.count →
      s.px.pages[ctx.localIndex] = l →
      let moved : Context :=
        { ctx with
          steps := ctx.steps + 1, fresh := false, localIndex := ctx.localIndex + 1
          localDone := decide (ctx.localIndex + 1 = s.px.count), localToggle := !ctx.localToggle }
      (repeated → l.kind ≠ .message →
        exec i s = .next (finishExchange
          (s.setEntry k { s.entry k with state := .negotiating moved }))) ∧
      (repeated → l.kind = .message → l.required = false ∨ p.comply = true →
        ∃ comply : BitVec 8,
          (∀ n, n < 8 → comply.getLsbD n = if n = ctx.localIndex then p.comply else r.comply.getLsbD n) ∧
            exec i s = .next (finishExchange
              (s.setEntry k
                { s.entry k with record := some ⟨r.dropped, comply⟩, state := .negotiating moved }))) ∧
      (l.kind = .message → l.required = true → p.comply = false →
        ∃ comply : BitVec 8,
          (∀ n, n < 8 → comply.getLsbD n = if n = ctx.localIndex then false else r.comply.getLsbD n) ∧
            exec i s = .next (finishExchange (enterFailed k .notComplied
              (s.setEntry k { s.entry k with record := some ⟨r.dropped, comply⟩ }))))) ∧
    (repeated → ctx.localDone = true ∨ s.px.count ≤ ctx.localIndex →
      exec i s = .next (finishExchange
        (s.setEntry k
          { s.entry k with
            state := .negotiating
              { ctx with
                steps := ctx.steps + 1, fresh := false, localDone := true, localToggle := !ctx.localToggle } })))

/-- A new page after the first, whatever the first half has made of the acknowledgement that came with it (FirstHalf):
one that meets a condition of Table 2-4 ends the negotiation in PAGE_ORDER, and is not stored; one that meets none is
accepted: a MESSAGE or UNFORMATTED page joins the received pages with its comply while the pool has room and is
counted as dropped when it has none, and a NULL page is not stored. The comply of an UNFORMATTED page is read from the
ack to deliver, which still carries that of its MESSAGE page (log 13). The step that reaches 20 with the exchange not
complete ends in STEP_LIMIT. -/
def Obligations.PageOrderAndAcceptance : Prop :=
  ∀ (i : Instr) (c : Call) (s : State) (ctx a : Context) (p : Page) (q : Bool) (r r1 : NegotiationRecord) (t : Bool),
    ExchangeEnds i c (.reply (.page p) q) s → c.kind = .page → (s.entry c.slot).state = .negotiating ctx →
    (s.entry c.slot).record = some r → FirstHalf s.px p ctx a r r1 → ctx.moduleToggle = some t → p.toggle ≠ t →
    let k := c.slot
    let e := { s.entry k with record := some r1 }
    let fault :=
      p.kind = .base ∨ (p.kind = .unformatted ∧ ctx.argsLeft = 0) ∨
        ((p.kind = .message ∨ p.kind = .null) ∧ 0 < ctx.argsLeft) ∨ (p.kind = .null ∧ ctx.finalSeen = false) ∨
        ((p.kind = .message ∨ p.kind = .unformatted) ∧ ctx.finalSeen = true) ∨
        (p.kind = .message ∧ (p.body.b0 = 0 ∨ 4 < p.body.b1.toNat)) ∨
        (p.kind = .message ∧ 0 < p.body.b1.toNat ∧ p.more = false) ∨
        (p.kind = .unformatted ∧ p.more = false ∧ 1 < ctx.argsLeft)
    let took := fun (comply : Bool) (args : Nat) (kept : Entry) =>
      (ctx.steps + 1 < 20 →
        exec i s = .next (finishExchange
          (s.setEntry k
            { kept with
              state := .negotiating
                { a with
                  steps := ctx.steps + 1, fresh := false, moduleToggle := some p.toggle
                  ack := some ⟨p.toggle, comply⟩, argsLeft := args, finalSeen := ctx.finalSeen || !p.more } }))) ∧
      (ctx.steps + 1 = 20 →
        exec i s = .next (finishExchange (enterFailed k .stepLimit (s.setEntry k kept))))
    (fault → exec i s = .next (finishExchange (enterFailed k .pageOrder (s.setEntry k e)))) ∧
    (¬fault → p.kind = .message → 0 < s.poolFree →
      took (s.px.accept.getLsbD p.body.b0.toNat) p.body.b1.toNat
        { e with pages := e.pages ++ [⟨.message, p.body, s.px.accept.getLsbD p.body.b0.toNat⟩] }) ∧
    (¬fault → p.kind = .message → s.poolFree = 0 →
      took (s.px.accept.getLsbD p.body.b0.toNat) p.body.b1.toNat
        { e with record := some ⟨if r1.dropped = 255 then 255 else r1.dropped + 1, r1.comply⟩ }) ∧
    (∀ x, ¬fault → p.kind = .unformatted → ctx.ack = some x → 0 < s.poolFree →
      took x.comply (ctx.argsLeft - 1) { e with pages := e.pages ++ [⟨.unformatted, p.body, x.comply⟩] }) ∧
    (∀ x, ¬fault → p.kind = .unformatted → ctx.ack = some x → s.poolFree = 0 →
      took x.comply (ctx.argsLeft - 1)
        { e with record := some ⟨if r1.dropped = 255 then 255 else r1.dropped + 1, r1.comply⟩ }) ∧
    (¬fault → p.kind = .null → a.localDone = false → took false ctx.argsLeft e)

/-- Resolution, at the step that completes the page exchange, with a repeated page or with a new NULL page, and
whether the acknowledgement that came with it set local done or found it set (FirstHalf): the module's fault flag ends
in MODULE_REPORTED; with no profile in all three masks the negotiation ends in NO_COMMON_PROFILE; otherwise the
highest-numbered profile in all three masks is proposed and the phase becomes SETTLE. -/
def Obligations.ProfileResolution : Prop :=
  ∀ (i : Instr) (c : Call) (s : State) (ctx a after : Context) (p : Page) (q : Bool) (r r1 : NegotiationRecord) (b : Body)
    (cls : BitVec 4),
    ExchangeEnds i c (.reply (.page p) q) s → c.kind = .page → (s.entry c.slot).state = .negotiating ctx →
    (s.entry c.slot).record = some r → FirstHalf s.px p ctx a r r1 → a.localDone = true → ctx.finalSeen = true →
    (s.entry c.slot).basePage = some b → (s.entry c.slot).cls = some cls →
    let stepped := { a with steps := ctx.steps + 1, fresh := false }
    (ctx.moduleToggle = some p.toggle ∧ after = stepped) ∨
      (∃ t, ctx.moduleToggle = some t ∧ p.toggle ≠ t ∧ p.kind = .null ∧ ctx.argsLeft = 0 ∧
        after = { stepped with moduleToggle := some p.toggle, ack := some ⟨p.toggle, false⟩ }) →
    let k := c.slot
    let e := { s.entry k with record := some r1 }
    let candidate := fun n : Nat =>
      s.px.pages[0].body.b0.getLsbD n = true ∧ b.b0.getLsbD n = true ∧
        (s.px.filter[cls.toNat]'(cls.isLt)).getLsbD n = true
    (b.b1.getLsbD 7 = true → exec i s = .next (finishExchange (enterFailed k .moduleReported (s.setEntry k e)))) ∧
    (b.b1.getLsbD 7 = false → (∀ n, ¬candidate n) →
      exec i s = .next (finishExchange (enterFailed k .noCommonProfile (s.setEntry k e)))) ∧
    ∀ n : Profile, b.b1.getLsbD 7 = false → candidate n.val → (∀ m, n.val < m → ¬candidate m) →
      exec i s = .next (finishExchange
        (s.setEntry k { e with state := .negotiating { after with phase := .settle n } }))

/-- The end of a POLL exchange: in an ACTIVE entry the next poll is due one poll period from now, with that period in force
and the standing NOT_DUE, whatever the outcome; a STATUS clears the misses, posts ALARM_CHANGED when the alarm byte differs
from the baseline, sets the baseline and the status record, and sets or clears fetch wanted; SILENCE and GARBLE are then a
miss. Any other entry discards the outcome. -/
def Obligations.PollExchangeEnd : Prop :=
  ∀ (i : Instr) (c : Call) (o : ExchangeOutcome) (s : State), ExchangeEnds i c o s → c.kind = .poll →
    let k := c.slot
    let polled := fun d : ActiveData =>
      { d with
        nextDue := s.sched.mscount + (0#8 ++ (s.entry k).pollPeriod)
        period := (s.entry k).pollPeriod
        standing := .notDue
        dueReached := false
        overdueReached := false }
    (∀ d r q, (s.entry k).state = .active d → o = .reply (.status r) q →
      exec i s = .next (finishExchange
        { (if r.alarm = d.alarmBaseline then s else post .alarmChanged (slotByte k) r.alarm s) with
          table := s.table.set k.val
            { s.entry k with
              state := .active { polled d with alarmBaseline := r.alarm }
              missCount := 0
              status := some r
              fetchWanted := decide (r.pending ≠ 0) } })) ∧
    (∀ d, (s.entry k).state = .active d → (o = .silence ∨ o = .garble) →
      exec i s = .next (finishExchange
        (countMiss k (s.setEntry k { s.entry k with state := .active (polled d) })))) ∧
    ((s.entry k).active? = none → exec i s = .next (finishExchange s))

/-! ## Actions on slots -/

/-- The results of the three slot actions by the state of the entry (Table 1-5), and BAD_SLOT, before any other check, for a
slot number outside 1..30. -/
def Obligations.SlotActionResults : Prop :=
  ∀ s : State, s.Running →
    ((s.win.args[0] = 0 ∨ 30 < s.win.args[0].toNat) →
      exec .detach s = .next (s.acted 0x30 .badSlot) ∧ exec .release s = .next (s.acted 0x31 .badSlot) ∧
        exec .renegotiate s = .next (s.acted 0x32 .badSlot)) ∧
    ∀ k : Slot, s.win.args[0] = slotByte k →
      ∃ d r n, exec .detach s = .next d ∧ exec .release s = .next r ∧ exec .renegotiate s = .next n ∧
        (d.win.ares, r.win.ares, n.win.ares) =
          (match (s.entry k).state with
            | .vacant => (.alreadyVacant, .wrongState, .wrongState)
            | .negotiating _ => (.done, .wrongState, .wrongState)
            | .active _ => (.done, .wrongState, .done)
            | .failed _ => (.done, .done, .wrongState)
            | .lost => (.done, .done, .wrongState)) ∧
        ((s.entry k).state = .vacant → d = s.acted 0x30 .alreadyVacant) ∧
        (r.win.ares = .wrongState → r = s.acted 0x31 .wrongState) ∧
        (n.win.ares = .wrongState → n = s.acted 0x32 .wrongState)

/-- DETACH of a slot that is not VACANT, and RELEASE of a FAILED or LOST one, make the entry VACANT: every enrolment
field is dropped, the pages go back to the pool, the deferred entry leaves with end-cause GONE and DEFERRED_GONE, and
the owed verdict is dropped. DETACH clears the census enable and ends an ACTIVE entry's outstanding command and then
its queued commands DETACHED; a release becomes owed unless the entry was LOST. Other entries and blocks are
unchanged. -/
def Obligations.DetachAndRelease : Prop :=
  ∀ (s : State) (k : Slot), s.Running → s.win.args[0] = slotByte k →
    let e := s.entry k
    let emptied := fun (enable owed : Bool) =>
      { Entry.reset with censusEnable := enable, pollPeriod := e.pollPeriod, releaseOwed := owed }
    let around := fun t : State =>
      (∀ j, j ≠ k → t.entry j = s.entry j) ∧
        t.sched = { s.sched with owed := s.sched.owed.filter fun j => j != k } ∧
        (s.deferredOf k = none → t.mu = s.mu ∧ t.nq = s.nq) ∧
        (∀ x, s.deferredOf k = some x →
          t.mu.queue = s.mu.queue.filter (fun y => y.handle != x.handle) ∧
            t.mu.handles = s.mu.handles.set x.handle.val ⟨s.mu.handles[x.handle.val].generation, .gone⟩ ∧
            t.nq = (post .deferredGone (slotByte k) (handleByte x.handle) s).nq) ∧
        t.pins = s.pins ∧ t.px = s.px ∧ t.link = s.link ∧ t.pending = s.pending
    (∀ d, e.state = .active d →
      ∃ t, exec .detach s = .next t ∧ t.win = (s.acted 0x30 .done).win ∧ t.entry k = emptied false true ∧ around t ∧
        t.ce =
          (settle (fun q => q.held.cmd.target == k) .detached
            { s with
              table := s.table.set k.val (e.setOutstanding none)
              ce :=
                { s.ce with completions := s.ce.completions ++ d.outstanding.toList.map fun o =>
                    ⟨o.held.cmd.tag, o.held.cmd.target, o.held.cmd.code, .detached, 0, []⟩ } }).ce) ∧
    ((∃ ctx, e.state = .negotiating ctx) ∨ (∃ f, e.state = .failed f) →
      ∃ t, exec .detach s = .next t ∧ t.win = (s.acted 0x30 .done).win ∧ t.entry k = emptied false true ∧ around t ∧
        t.ce = s.ce) ∧
    (e.state = .lost →
      ∃ t, exec .detach s = .next t ∧ t.win = (s.acted 0x30 .done).win ∧
        t.entry k = emptied false e.releaseOwed ∧ around t ∧ t.ce = s.ce) ∧
    (∀ f, e.state = .failed f →
      ∃ t, exec .release s = .next t ∧ t.win = (s.acted 0x31 .done).win ∧
        t.entry k = emptied e.censusEnable true ∧ around t ∧ t.ce = s.ce) ∧
    (e.state = .lost →
      ∃ t, exec .release s = .next t ∧ t.win = (s.acted 0x31 .done).win ∧
        t.entry k = emptied e.censusEnable e.releaseOwed ∧ around t ∧ t.ce = s.ce)

/-- RENEGOTIATE of an ACTIVE slot: a fresh context, the base page and the received pages dropped, hold, fetch wanted and
sequence bit cleared, the pages-dropped count and comply record cleared, a renegotiation request removed from an owed
verdict, the outstanding command ended RENEGOTIATED, and RENEGOTIATING posted with cause 2; queued commands and the deferred
entry stay, and nothing else changes. The transition a module's request makes is the same with cause 1. -/
def Obligations.Renegotiate : Prop :=
  ∀ (s : State) (k : Slot) (d : ActiveData), (s.entry k).state = .active d →
    let renegotiated := fun cause : Byte =>
        post .renegotiating (slotByte k) cause
          { s with
            table := s.table.set k.val
              { s.entry k with
                state := .negotiating
                  { phase := .exchange, steps := 0, localIndex := 0, localDone := false, localToggle := false
                    moduleToggle := none, finalSeen := false, ack := none, argsLeft := 0, fresh := true }
                basePage := none, pages := [], hold := 0, fetchWanted := false, seqBit := false
                record := some ⟨0, 0⟩
                verdictOwed := (s.entry k).verdictOwed.map fun v => { v with renegotiation := false } }
            ce :=
              { s.ce with completions := s.ce.completions ++
                d.outstanding.toList.map fun o =>
                  ⟨o.held.cmd.tag, o.held.cmd.target, o.held.cmd.code, .renegotiated, 0, []⟩ } }
    (∀ cause, renegotiate k cause s = renegotiated cause) ∧
      (s.Running → s.win.args[0] = slotByte k →
        exec .renegotiate s = .next (State.acted (renegotiated 2) 0x32 .done))

/-! ## The link actions -/

/-- The local page list is valid exactly when the six conditions of R38 hold. -/
def Obligations.LocalPageListValidation : Prop :=
  ∀ px : PageExchange, px.count ≤ 8 →
    (px.valid = true ↔
      1 ≤ px.count ∧ px.pages[0].kind = .base ∧
        (∀ k : Fin 8, 1 ≤ k.val → k.val < px.count → px.pages[k.val].kind ≠ .base ∧ px.pages[k.val].kind ≠ .null) ∧
        (∀ k : Fin 8, k.val < px.count → px.pages[k.val].kind = .message →
          px.pages[k.val].body.b0 ≠ 0 ∧ px.pages[k.val].body.b1.toNat ≤ 4) ∧
        (∀ k : Fin 8, k.val < px.count → px.pages[k.val].kind = .message →
          ∀ n, n < px.pages[k.val].body.b1.toNat →
            ∃ j : Fin 8, j.val = k.val + 1 + n ∧ j.val < px.count ∧ px.pages[j.val].kind = .unformatted) ∧
        ∀ j : Fin 8, j.val < px.count → px.pages[j.val].kind = .unformatted →
          ∃ k : Fin 8, px.pages[k.val].kind = .message ∧ k.val < j.val ∧
            j.val ≤ k.val + px.pages[k.val].body.b1.toNat)

/-- ENABLE_LINK: in OFF with a list that fails, BAD_LOCAL_PAGES and OFF; in OFF with a valid list, DONE and IDLE with LFLTN
high, or FAULT with quiet-time count 0 and LINE_FAULT posted with LFLTN low; elsewhere WRONG_STATE. Nothing else changes but
the recorded level of LFLTN (log 5). -/
def Obligations.EnableLink : Prop :=
  ∀ (l : Level) (s : State), s.Running →
    let s1 := { s with pins := { s.pins with lfltn := l } }
    (s.link.state ≠ .off → exec (.enableLink l) s = .next (s1.acted 0x01 .wrongState)) ∧
    (s.link.state = .off → s.px.valid = false → exec (.enableLink l) s = .next (s1.acted 0x01 .badLocalPages)) ∧
    (s.link.state = .off → s.px.valid = true → l = .high →
      exec (.enableLink l) s = .next
        (State.acted { s1 with link := { s.link with state := .idle, activity := .quiet, window := none } }
          0x01 .done)) ∧
    (s.link.state = .off → s.px.valid = true → l = .low →
      exec (.enableLink l) s = .next
        (State.acted
          (post .lineFault 0 0
            { s1 with
              link :=
                { s.link with
                  state := .fault, activity := .quiet, attempt := 0, quiet := 0, window := none
                  heldBroadcast := false } })
          0x01 .done))

/-- DISABLE_LINK: LINK_OFF in OFF; DONE in every other state. In IDLE the engine enters OFF; in SENDING, WAITING and
RECEIVING stop pending is set and the state is STOPPING; in STOPPING nothing more changes; in BROADCASTING stop
pending is set; in FAULT stop pending is set where a call or a broadcast is held or a restart is pending, and else the
engine enters OFF. -/
def Obligations.DisableLink : Prop :=
  ∀ s : State, s.Running →
    let off := State.acted
      { s with link := { s.link with state := .off, activity := .quiet, stopPending := false, window := none } } 0x02 .done
    let stopping := fun shown : LinkState =>
      State.acted { s with link := { s.link with state := shown, stopPending := true } } 0x02 .done
    let held := s.link.current ≠ none ∨ s.link.heldBroadcast = true ∨ s.link.restartPending = true
    (s.link.state = .off → exec .disableLink s = .next (s.acted 0x02 .linkOff)) ∧
    (s.link.state = .idle → exec .disableLink s = .next off) ∧
    ((s.link.state = .sending ∨ s.link.state = .waiting ∨ s.link.state = .receiving) →
      exec .disableLink s = .next (stopping .stopping)) ∧
    (s.link.state = .stopping → exec .disableLink s = .next (s.acted 0x02 .done)) ∧
    (s.link.state = .broadcasting → exec .disableLink s = .next (stopping .broadcasting)) ∧
    (s.link.state = .fault → held → exec .disableLink s = .next (stopping .fault)) ∧
    (s.link.state = .fault → ¬held → exec .disableLink s = .next off)

/-- RESTART_LINK: LINK_OFF in OFF; DONE with restart pending set in every state but OFF and IDLE; in IDLE the restart
acts at once and transmits the broadcast RELEASE. Acting, then or at a later event, makes every entry VACANT with
nothing kept but its census enable and poll period, an entry that was VACANT keeping all but its release owed; it
empties the owed order and the deferred queue, every handle that held an entry ending GONE with its generation and the
other handles unchanged; it posts DEFERRED_GONE for each deferred entry, with slot and handle and in slot order, and
then LINK_RESTARTED. Slot by slot, the outstanding command of a slot that was ACTIVE ends LINK_RESTART with a record,
and then the unsettled commands queued to it are settled LINK_RESTART, and settled commands leave the queue as room
allows; the commands queued to other slots stay. The window, the engine and everything else are kept. -/
def Obligations.RestartLink : Prop :=
  (∀ s : State, s.Running →
    (s.link.state = .off → exec .restartLink s = .next (s.acted 0x03 .linkOff)) ∧
    (s.link.state ≠ .off → s.link.state ≠ .idle →
      exec .restartLink s = .next (State.acted { s with link := { s.link with restartPending := true } } 0x03 .done)) ∧
    (s.link.state = .idle →
      ∃ t, exec .restartLink s = .next t ∧
        t = State.acted
          { restartTable { s with link := { s.link with restartPending := false } } with
            link :=
              { s.link with
                state := .broadcasting, activity := .transmitting, heldBroadcast := false, window := none
                restartPending := false } }
          0x03 .done ∧
        t.txFrame = some [0xC3, 0x1F, 0x08, 0x00, 0x67, 0x2A])) ∧
  ∀ s : State, (∀ d ∈ s.mu.queue, (s.entry d.slot).state ≠ .vacant) → (s.mu.queue.map Deferred.slot).Nodup →
    (s.mu.queue.map Deferred.handle).Nodup → (∀ i, (s.entry i).verdictOwed ≠ none → (s.entry i).state ≠ .vacant) →
    (∀ i ∈ s.sched.owed, (s.entry i).state ≠ .vacant) →
    let t := restartTable s
    (∀ i, t.entry i =
        if (s.entry i).state = .vacant then { s.entry i with releaseOwed := false }
        else
          { Entry.reset with censusEnable := (s.entry i).censusEnable, pollPeriod := (s.entry i).pollPeriod }) ∧
      t.sched = { s.sched with owed := [] } ∧
      t.mu.queue = [] ∧ t.mu.timeout = s.mu.timeout ∧
      (∀ h : Handle, t.mu.handles[h.val] =
        if ∃ d ∈ s.mu.queue, d.handle = h then ⟨s.mu.handles[h.val].generation, .gone⟩ else s.mu.handles[h.val]) ∧
      t.ce =
        ((List.finRange 30).foldl
          (fun u i =>
            match (s.entry i).active? with
            | none => u
            | some d =>
              settle (fun q => q.held.cmd.target == i) .linkRestart
                { u with
                  table := u.table.set i.val ((s.entry i).setOutstanding none)
                  ce :=
                    { u.ce with completions := u.ce.completions ++ d.outstanding.toList.map fun o =>
                        ⟨o.held.cmd.tag, o.held.cmd.target, o.held.cmd.code, .linkRestart, 0, []⟩ } }) s).ce ∧
      (∀ q ∈ t.ce.queue, ∃ x ∈ s.ce.queue, x.held = q.held ∧
        q.settled = if (s.entry x.held.cmd.target).isActive = true then some (x.settled.getD .linkRestart)
          else x.settled) ∧
      (∀ q ∈ s.ce.queue, (s.entry q.held.cmd.target).isActive = false → q.settled = none → q ∈ t.ce.queue) ∧
      (∀ i o, (s.entry i).outstanding? = some o →
        ⟨o.held.cmd.tag, o.held.cmd.target, o.held.cmd.code, .linkRestart, 0, []⟩ ∈ t.ce.completions) ∧
      (∃ ended, t.ce.completions = s.ce.completions ++ ended ∧
        t.ce.queue.length + ended.length = s.ce.queue.length + s.outstandingCount ∧
        ∀ r ∈ ended,
          (∃ i o, (s.entry i).outstanding? = some o ∧
            r = ⟨o.held.cmd.tag, o.held.cmd.target, o.held.cmd.code, .linkRestart, 0, []⟩) ∨
          ∃ x ∈ s.ce.queue, (x.settled ≠ none ∨ (s.entry x.held.cmd.target).isActive = true) ∧
            r = ⟨x.held.cmd.tag, x.held.cmd.target, x.held.cmd.code, x.settled.getD .linkRestart, 0, []⟩) ∧
      t.ce.inFlight = s.ce.inFlight ∧ t.ce.nextPlace = s.ce.nextPlace ∧
      t.nq =
        (post .linkRestarted 0 0
          ((List.finRange 30).foldl
            (fun u i =>
              match s.deferredOf i with
              | none => u
              | some d => post .deferredGone (slotByte i) (handleByte d.handle) u) s)).nq ∧
      t.link = s.link ∧ t.pins = s.pins ∧ t.win = s.win ∧ t.px = s.px ∧ t.pending = s.pending

/-! ## Calls on the line -/

/-- At a choice in IDLE the first class with work is taken, in the order of Table 4-1, and its call is the current
call on its first attempt: a RELEASE to the lowest slot that owes one; else a VERDICT to the first ACTIVE slot of the
owed order; else a PAGE or SETTLE to the first NEGOTIATING slot from the negotiation pointer, which moves past it;
else a POLL to the lowest OVERDUE slot. A PAGE call carries the local entry at the local index, with its kind and body
and more 0 for the last entry only, or a NULL page with more 0 where local done is set or the list is shorter; its
toggle is the local toggle, its ack fields are those of the ack to deliver or 0, and fresh is the context's; the bytes
its body gives as sent as 0 are 0 whatever the list holds (log 10). In every other state nothing changes. -/
def Obligations.CallChoiceHigherClasses : Prop :=
  ∀ s : State, s.Running →
    let handed := fun (u : State) (cls : SchedClass) (kind : CallKind) (k : Slot) (payload : List Byte) =>
      { u with link :=
        { s.link with
          state := .sending, activity := .transmitting, attempt := 1, window := none
          current := some ⟨cls, k, kind, BitVec.ofNat 5 (k.val + 1), false, payload⟩ } }
    let noRelease := ∀ i, (s.entry i).releaseOwed = false
    let noVerdict := ∀ i ∈ s.sched.owed, (s.entry i).active? = none
    let noNegotiation := ∀ i, (s.entry i).context? = none
    (s.link.state ≠ .idle → exec .callChoice s = .next s) ∧
    (s.link.state = .idle → s.link.stopPending = false →
      (∀ k, (s.entry k).releaseOwed = true → (∀ j, j < k → (s.entry j).releaseOwed = false) →
        exec .callChoice s = .next (handed s .release .release k [])) ∧
      (∀ before k after v, noRelease → s.sched.owed = before ++ k :: after →
        (∀ j ∈ before, (s.entry j).active? = none) → (s.entry k).active?.isSome = true →
        (s.entry k).verdictOwed = some v →
        exec .callChoice s = .next
          (handed s .verdict .verdict k [0#4 ++ v.verdict.number, if v.verdict.code = .accept then 1 else 2, v.verdict.reason])) ∧
      (∀ (n : Fin 30) (ctx : Context), noRelease → noVerdict →
        (∀ m : Fin 30, m < n → (s.entry (s.sched.negPtr + m)).context? = none) →
        (s.entry (s.sched.negPtr + n)).context? = some ctx →
        let k := s.sched.negPtr + n
        let moved := { s with sched := { s.sched with negPtr := k + 1 } }
        (ctx.phase = .exchange →
          let calls := fun (kind : BitVec 2) (more : Bool) (b0 b1 b2 b3 : Byte) =>
            exec .callChoice s = .next (handed moved .negotiation .page k
              [(match ctx.ack with
                | none => BitVec.ofBool ctx.fresh ++ 0#3 ++ BitVec.ofBool ctx.localToggle ++ BitVec.ofBool more ++ kind
                | some a =>
                  BitVec.ofBool ctx.fresh ++ BitVec.ofBool a.comply ++ BitVec.ofBool a.toggle ++ 1#1 ++
                    BitVec.ofBool ctx.localToggle ++ BitVec.ofBool more ++ kind),
                b0, b1, b2, b3])
          (ctx.localDone = true ∨ s.px.count ≤ ctx.localIndex → calls 3 false 0 0 0 0) ∧
          ∀ (h : ctx.localIndex < 8) (l : LocalPage), ctx.localDone = false → ctx.localIndex < s.px.count →
            s.px.pages[ctx.localIndex] = l →
            let more := decide (ctx.localIndex + 1 ≠ s.px.count)
            (l.kind = .base → calls 0 more l.body.b0 l.body.b1 l.body.b2 0) ∧
              (l.kind = .message → calls 1 more l.body.b0 l.body.b1 0 0) ∧
              (l.kind = .unformatted → calls 2 more l.body.b0 l.body.b1 l.body.b2 l.body.b3) ∧
              (l.kind = .null → calls 3 more 0 0 0 0)) ∧
        ∀ p, ctx.phase = .settle p →
          exec .callChoice s = .next (handed moved .negotiation .settle k [BitVec.ofNat 8 p.val])) ∧
      (∀ k, noRelease → noVerdict → noNegotiation → (s.entry k).standingIs .overdue = true →
        (∀ j, j < k → (s.entry j).standingIs .overdue = false) →
        exec .callChoice s = .next (handed s .overduePoll .poll k [])))

/-- The lower classes of Table 4-1, with no work above them and no queued command that can start (every one is
settled, or its target is not ACTIVE, is on hold, has a command outstanding or a verdict owed, or the reservation is
full): a FETCH to the first ACTIVE slot from the fetch pointer that wants one and has neither a deferred entry nor a
verdict owed, unless the deferred queue is full; else a POLL to the lowest DUE slot; else, once the census interval
has elapsed, a CENSUS, to address 0, of the first eligible slot from the sweep pointer; with no work at all nothing
changes. -/
def Obligations.CallChoiceLowerClasses : Prop :=
  ∀ s : State, s.Running → s.link.state = .idle → s.link.stopPending = false →
    (∀ i, (s.entry i).releaseOwed = false ∧ (s.entry i).context? = none ∧ (s.entry i).standingIs .overdue = false) →
    (∀ i ∈ s.sched.owed, (s.entry i).active? = none) →
    (16 ≤ s.reservation ∨
      ∀ q ∈ s.ce.queue, q.settled ≠ none ∨ (s.entry q.held.cmd.target).active? = none ∨
        (s.entry q.held.cmd.target).hold ≠ 0 ∨ (s.entry q.held.cmd.target).outstanding? ≠ none ∨
        (s.entry q.held.cmd.target).verdictOwed ≠ none) →
    let handed := fun (u : State) (cls : SchedClass) (kind : CallKind) (k : Slot) (address : BitVec 5)
        (payload : List Byte) =>
      { u with link :=
        { s.link with
          state := .sending, activity := .transmitting, attempt := 1, window := none
          current := some ⟨cls, k, kind, address, false, payload⟩ } }
    let wants := fun i => (s.entry i).active?.isSome = true ∧ (s.entry i).fetchWanted = true ∧
      s.deferredOf i = none ∧ (s.entry i).verdictOwed = none
    let noFetch := 8 ≤ s.mu.queue.length ∨ ∀ i, ¬wants i
    let eligible := fun i => (s.entry i).state = .vacant ∧ (s.entry i).censusEnable = true
    let noDue := ∀ i, (s.entry i).standingIs .due = false
    (∀ n : Fin 30, s.mu.queue.length < 8 → (∀ m : Fin 30, m < n → ¬wants (s.sched.fetchPtr + m)) →
      wants (s.sched.fetchPtr + n) →
      let k := s.sched.fetchPtr + n
      exec .callChoice s = .next
        (handed { s with sched := { s.sched with fetchPtr := k + 1 } } .fetch .fetch k (BitVec.ofNat 5 (k.val + 1)) [])) ∧
    (∀ k, noFetch → (s.entry k).standingIs .due = true → (∀ j, j < k → (s.entry j).standingIs .due = false) →
      exec .callChoice s = .next (handed s .duePoll .poll k (BitVec.ofNat 5 (k.val + 1)) [])) ∧
    (∀ n : Fin 30, noFetch → noDue → s.sched.censusInterval.toNat ≤ s.sched.censusElapsed →
      (∀ m : Fin 30, m < n → ¬eligible (s.sched.sweep + m)) → eligible (s.sched.sweep + n) →
      let k := s.sched.sweep + n
      exec .callChoice s = .next
        (handed { s with sched := { s.sched with sweep := k + 1, censusElapsed := 0 } } .census .census k 0
          [slotByte k])) ∧
    (noFetch → noDue → (s.sched.censusElapsed < s.sched.censusInterval.toNat ∨ ∀ i, ¬eligible i) →
      exec .callChoice s = .next s)

/-- The phases of an attempt: the last stop bit of a call starts the reply window with the parameter's length (and
ends the transmission of a broadcast), a start bit confirmed within the window begins the reception, and the end of
the retry gap transmits the call again; STOPPING shows every phase as itself. Where the phase is not the one the event
ends, nothing changes (log 2). -/
def Obligations.AttemptPhases : Prop :=
  ∀ s : State, s.Running →
    (∀ shown, (s.link.stopPending = true ∧ shown = LinkState.stopping ∨
        s.link.stopPending = false ∧ shown = LinkState.waiting) →
      s.link.activity = .transmitting → (s.link.state = .sending ∨ s.link.state = .stopping) →
      exec .callSent s = .next
        { s with link :=
          { s.link with state := shown, activity := .awaiting, window := some s.link.replyWindow } }) ∧
    (s.link.activity = .transmitting → s.link.state = .broadcasting →
      exec .callSent s = .next { s with link := { s.link with activity := .frameEnding } }) ∧
    (s.link.activity ≠ .transmitting → exec .callSent s = .next s) ∧
    (∀ shown, (s.link.stopPending = true ∧ shown = LinkState.stopping ∨
        s.link.stopPending = false ∧ shown = LinkState.receiving) →
      s.link.activity = .awaiting → (s.link.state = .waiting ∨ s.link.state = .stopping) →
      exec .replyStartBit s = .next
        { s with link := { s.link with state := shown, activity := .receiving, window := none } }) ∧
    (s.link.activity ≠ .awaiting → exec .replyStartBit s = .next s) ∧
    (s.link.activity = .gap → (s.link.state = .sending ∨ s.link.state = .stopping) →
      exec .retryGapEnd s = .next { s with link := { s.link with activity := .transmitting } }) ∧
    (s.link.activity ≠ .gap → exec .retryGapEnd s = .next s)

/-- An attempt that ends SILENCE or GARBLE is followed by another while the attempt count is at most the retry limit, and for a
census after a first GARBLE only: the call is kept, the retry gap begins, and the attempt count rises with it (log 9). An
exchange that ends is delivered, and the engine then clears the call and goes on to the restart, to OFF or to IDLE. A RELEASE
exchange to a VACANT slot clears its release owed whatever its outcome. -/
def Obligations.AttemptAndExchangeEnd : Prop :=
  (∀ (i : Instr) (c : Call) (o : ExchangeOutcome) (s : State), AttemptEnds i c o s → Retried c o s.link →
     exec i s = .next
       { s with link :=
         { s.link with
           state := if s.link.stopPending = true then .stopping else .sending
           activity := .gap, attempt := s.link.attempt + 1, window := none } }) ∧
  (∀ s : State,
     (s.link.restartPending = false → s.link.stopPending = false →
       finishExchange s =
         { s with link :=
           { s.link with state := .idle, activity := .quiet, current := none, attempt := 0, window := none } }) ∧
     (s.link.restartPending = false → s.link.stopPending = true →
       finishExchange s =
         { s with link :=
           { s.link with
             state := .off, activity := .quiet, current := none, attempt := 0, window := none, stopPending := false } }) ∧
     (s.link.restartPending = true →
       finishExchange s =
         { restartTable { s with link := { s.link with current := none, attempt := 0, restartPending := false } } with
           link :=
             { s.link with
               state := .broadcasting, activity := .transmitting, heldBroadcast := false, window := none
               current := none, attempt := 0, restartPending := false } })) ∧
  (∀ (i : Instr) (c : Call) (o : ExchangeOutcome) (s : State), ExchangeEnds i c o s →
     (deliver c o s).link = s.link ∧ exec i s = .next (finishExchange (deliver c o s))) ∧
  (∀ (i : Instr) (c : Call) (o : ExchangeOutcome) (s : State), ExchangeEnds i c o s → c.kind = .release →
     (s.entry c.slot).state = .vacant →
     exec i s = .next (finishExchange (s.setEntry c.slot { s.entry c.slot with releaseOwed := false })))

/-- A line fault outside OFF and FAULT (LFLTN low in any state; or an echo mismatch, where RXD, sampled at the middle of a
bit the engine drives, differs from that bit of the frame on TXD): FAULT with quiet-time count 0, TXEN low, the call
or the broadcast in hand held, and LINE_FAULT posted. A sample that agrees with TXD, one of a bit past the frame's
end, and one while nothing is transmitted, the retry gap among it, is no mismatch and no fault. In OFF nothing
happens, and in FAULT LFLTN or RXD low restarts the quiet-time count, as QUIET_TIME_RESTART does. Of a
QUIET_TIME_RESTART presented in any other state the model takes nothing, not even the level (log 2). The event leaves
the level of the pin it brings recorded (log 5); one sample comes with one command (log 29). -/
def Obligations.LineFault : Prop :=
  ∀ (cause : FaultCause) (s : State), s.Running →
    let s1 :=
      { s with pins :=
        (match cause with
          | .lfltnLow => { s.pins with lfltn := .low }
          | .echo _ rxd => { s.pins with rxd := rxd }) }
    (s.link.state = .off → exec (.lineFault cause) s = .next s1) ∧
    (s.link.state = .fault → (cause = .lfltnLow ∨ ∃ bit, cause = .echo bit .low) →
      exec (.lineFault cause) s = .next { s1 with link := { s.link with quiet := 0 } }) ∧
    (∀ bit, s.link.state = .fault → cause = .echo bit .high → exec (.lineFault cause) s = .next s1) ∧
    (∀ bit rxd, s.link.state ≠ .fault → cause = .echo bit rxd →
      (s.link.activity ≠ .transmitting ∨
        ∃ bytes, s.txFrame = some bytes ∧ (10 * bytes.length ≤ bit ∨ rxd = s.txd bit)) →
      exec (.lineFault cause) s = .next s1) ∧
    (s.link.state ≠ .off → s.link.state ≠ .fault →
      (cause = .lfltnLow ∨ ∃ bytes n k b rxd, s.txFrame = some bytes ∧ bytes[n]? = some b ∧ k < 10 ∧
        cause = .echo (10 * n + k) rxd ∧ rxd ≠ if (serial b).getLsbD k = true then .high else .low) →
      exec (.lineFault cause) s = .next
        (post .lineFault 0 0
          { s1 with
            link :=
              { s.link with
                state := .fault, activity := .quiet, attempt := 0, quiet := 0, window := none
                heldBroadcast := decide (s.link.state = .broadcasting) } })) ∧
    (∀ brk, s.link.state = .fault →
      exec (.quietTimeRestart brk) s = .next
        { s with
          link := { s.link with quiet := 0 }
          pins :=
            { s.pins with
              lfltn := if brk = .lfltnLow then .low else s.pins.lfltn
              rxd := if brk = .rxdLow then .low else s.pins.rxd } }) ∧
    ∀ brk, s.link.state ≠ .fault → exec (.quietTimeRestart brk) s = .next s

/-- With the quiet-time count at 10 in FAULT, LINE_RESTORED is posted and the engine leaves FAULT, the count left as
it stands (log 22): a held call is sent again from attempt 1 with its content unchanged, else a held broadcast is sent
anew without acting on the table, else a pending restart acts, else a pending stop gives OFF, else IDLE. At the end of
a broadcast frame, taken with or without the CALL_SENT before it (log 17), a pending restart acts again, else a
pending stop gives OFF, else IDLE. Below 10, and in any other state, nothing changes (log 2). -/
def Obligations.LineRestoredAndBroadcastEnd : Prop :=
  (∀ s : State, s.Running →
     let s1 := post .lineRestored 0 0 s
     (s.link.state ≠ .fault ∨ s.link.quiet < 10 → exec .lineRestored s = .next s) ∧
     (s.link.state = .fault → 10 ≤ s.link.quiet →
       (∀ c, s.link.current = some c →
         exec .lineRestored s = .next
           { s1 with link :=
             { s.link with
               state := if s.link.stopPending = true then .stopping else .sending
               activity := .transmitting, attempt := 1, window := none } }) ∧
       (s.link.current = none → s.link.heldBroadcast = true →
         exec .lineRestored s = .next
           { s1 with link :=
             { s.link with
               state := .broadcasting, activity := .transmitting, heldBroadcast := false, window := none } }) ∧
       (s.link.current = none → s.link.heldBroadcast = false → s.link.restartPending = true →
         exec .lineRestored s = .next
           { restartTable { s1 with link := { s.link with restartPending := false } } with
             link :=
               { s.link with
                 state := .broadcasting, activity := .transmitting, heldBroadcast := false, window := none
                 restartPending := false } }) ∧
       (s.link.current = none → s.link.heldBroadcast = false → s.link.restartPending = false →
         s.link.stopPending = true →
         exec .lineRestored s = .next
           { s1 with link :=
             { s.link with state := .off, activity := .quiet, stopPending := false, window := none } }) ∧
       (s.link.current = none → s.link.heldBroadcast = false → s.link.restartPending = false →
         s.link.stopPending = false →
         exec .lineRestored s = .next
           { s1 with link := { s.link with state := .idle, activity := .quiet, window := none } }))) ∧
  (∀ s : State, s.Running →
     (s.link.state ≠ .broadcasting → exec .broadcastEnd s = .next s) ∧
     (s.link.state = .broadcasting → s.link.restartPending = false → s.link.stopPending = false →
       exec .broadcastEnd s = .next
         { s with link := { s.link with state := .idle, activity := .quiet, window := none } }) ∧
     (s.link.state = .broadcasting → s.link.restartPending = false → s.link.stopPending = true →
       exec .broadcastEnd s = .next
         { s with link := { s.link with state := .off, activity := .quiet, stopPending := false, window := none } }) ∧
     (s.link.state = .broadcasting → s.link.restartPending = true →
       exec .broadcastEnd s = .next
         { restartTable { s with link := { s.link with restartPending := false } } with
           link :=
             { s.link with
               state := .broadcasting, activity := .transmitting, heldBroadcast := false, window := none
               restartPending := false } }))

/-! ## Time -/

/-- The 1 ms tick: MSCOUNT rises by 1 modulo 65536, the census elapsed count by 1 up to 255; every hold above 0 falls by 1;
the deadlines of unsettled queued, in-flight and outstanding commands fall by 1 (and stay at 0, log 3), the ages of OPEN
entries rise by 1; in FAULT the quiet-time count rises by 1, up to 10, with both input levels high, and else is 0. The input
levels are recorded (log 5), and configuration, queues' orders and every other field are kept. -/
def Obligations.MsTick : Prop :=
  ∀ (lfltn rxd : Level) (s : State), s.Running →
    ∃ t, exec (.msTick lfltn rxd) s = .next t ∧
      t.sched = { s.sched with
        mscount := s.sched.mscount + 1, censusElapsed := min (s.sched.censusElapsed + 1) 255 } ∧
      (∀ i, (t.entry i).hold = (if (s.entry i).hold = 0 then 0 else (s.entry i).hold - 1) ∧
        ((s.entry i).active? = none → t.entry i = { s.entry i with hold := (t.entry i).hold }) ∧
        ∀ d, (s.entry i).active? = some d →
          ∃ due overdue, t.entry i =
            { s.entry i with
              hold := (t.entry i).hold
              state := .active
                { d with
                  outstanding := d.outstanding.map fun o =>
                    { o with held := { o.held with remaining := o.held.remaining.map (· - 1) } }
                  dueReached := due
                  overdueReached := overdue } }) ∧
      t.ce = { s.ce with
        queue := s.ce.queue.map fun q =>
          if q.settled = none then { q with held := { q.held with remaining := q.held.remaining.map (· - 1) } } else q
        inFlight := s.ce.inFlight.map fun f =>
          { f with held := { f.held with remaining := f.held.remaining.map (· - 1) } } } ∧
      t.mu = { s.mu with
        queue := s.mu.queue.map fun d =>
          if d.decision = none ∧ d.timeoutReached = false then
            { d with age := d.age + 1, timeoutReached := decide (10 * s.mu.timeout.toNat ≤ d.age + 1) }
          else d } ∧
      (s.link.state ≠ .fault → t.link = s.link) ∧
      (s.link.state = .fault → t.link = { s.link with
        quiet := if lfltn = .high ∧ rxd = .high then min (s.link.quiet + 1) 10 else 0 }) ∧
      t.pins = { s.pins with lfltn := lfltn, rxd := rxd } ∧ t.win = s.win ∧ t.px = s.px ∧ t.nq = s.nq ∧
      t.pending = s.pending

/-- The tick that makes MSCOUNT equal to next poll due while the standing is NOT_DUE lets POLL_DUE make it DUE, and the tick that
makes it equal to next poll due plus the period in force while the standing is DUE lets POLL_OVERDUE make it OVERDUE; without
such a tick neither changes anything (log 3). CENSUS_INTERVAL_ELAPSED and HOLD_END change no state (log 19): the census class
reads the elapsed count, and the start of a command reads hold remaining, at the moment of choice. -/
def Obligations.TimeMarks : Prop :=
  (∀ (k : Slot) (s : State) (d : ActiveData), s.Running → (s.entry k).active? = some d →
     (∀ (lfltn rxd : Level) t, exec (.msTick lfltn rxd) s = .next t →
       d.dueReached = false → d.overdueReached = false →
       ∃ d', (t.entry k).active? = some d' ∧ d'.standing = d.standing ∧
         (d'.dueReached = true ↔ d.standing = .notDue ∧ s.sched.mscount + 1 = d.nextDue) ∧
         (d'.overdueReached = true ↔
           d.standing = .due ∧ s.sched.mscount + 1 = d.nextDue + (0#8 ++ d.period))) ∧
     (d.standing = .notDue → d.dueReached = true →
       exec (.pollDue k) s = .next
         (s.setEntry k { s.entry k with state := .active { d with standing := .due, dueReached := false } })) ∧
     (d.standing ≠ .notDue ∨ d.dueReached = false → exec (.pollDue k) s = .next s) ∧
     (d.standing = .due → d.overdueReached = true →
       exec (.pollOverdue k) s = .next
         (s.setEntry k { s.entry k with state := .active { d with standing := .overdue, overdueReached := false } })) ∧
     (d.standing ≠ .due ∨ d.overdueReached = false → exec (.pollOverdue k) s = .next s)) ∧
  (∀ (k : Slot) (s : State), s.Running →
     exec .censusIntervalElapsed s = .next s ∧ exec (.holdEnd k) s = .next s ∧
       (s.censusWork = none ↔ s.sched.censusElapsed < s.sched.censusInterval.toNat ∨
         ∀ i, ¬((s.entry i).state = .vacant ∧ (s.entry i).censusEnable = true ∧ (s.entry i).releaseOwed = false)) ∧
       ((s.entry k).hold ≠ 0 → ∀ q, q.held.cmd.target = k → s.isCandidate q = false))

/-! ## Invariants -/

/-- The invariant holds of the machine right after reset. -/
def Obligations.InvAtReset : Prop :=
  Inv State.reset

/-- Every step keeps the notice queue within 32 notices, the lost count within 255, and the lost count 0 unless the queue is
full. -/
def Obligations.StepKeepsNoticesOk : Prop :=
  ∀ s t : State, NoticesOk s → step s = .next t → NoticesOk t

/-- Every step keeps the command queue within 16 and the reservation count within 16, so that no completion record ever finds
the completion queue full. -/
def Obligations.StepKeepsCommandsOk : Prop :=
  ∀ s t : State, CommandsOk s → step s = .next t → CommandsOk t

/-- Every step keeps every parameter in its range, every poll period above 0 and the window offset within 1023. -/
def Obligations.StepKeepsConfigOk : Prop :=
  ∀ s t : State, ConfigOk s → step s = .next t → ConfigOk t

/-- Every step keeps the module table as its rules promise: a release owed only to a VACANT entry, a hold only in an
ACTIVE one, step counts within 20, at most 96 received pages in all, a CENSUS call on the link only to a VACANT slot
that owes no release, and a PAGE call only to an entry that is not in phase SETTLE. -/
def Obligations.StepKeepsTableOk : Prop :=
  ∀ s t : State, TableOk s → step s = .next t → TableOk t

/-- Every step keeps at most one deferred entry to a slot and to a handle (so at most 8), no age above 2550, and no
FETCH call on the link to a slot that has a deferred entry. -/
def Obligations.StepKeepsDeferredOk : Prop :=
  ∀ s t : State, DeferredOk s → step s = .next t → DeferredOk t

/-- Every step keeps the link engine as Table 3-1 has it: a call in the states of an exchange and in no other but FAULT, an
attempt count of 1 to 8 in an exchange, STOPPING exactly with a stop pending in an exchange, the quiet-time count within 10. -/
def Obligations.StepKeepsLinkOk : Prop :=
  ∀ s t : State, LinkOk s → step s = .next t → LinkOk t
end

