-- ==== Sys2Proof/Laws/State.lean ====
section
/-! SUPPORT. What each update of the state leaves alone and what it writes: one lemma per field per update, so that no
proof about a shared operation unfolds a record update. -/

namespace Sys2Proof.Machine

/-! ### setEntry -/

@[simp] theorem setEntry_pins (i : Slot) (e : Entry) (s : State) : (s.setEntry i e).pins = s.pins := rfl
@[simp] theorem setEntry_win (i : Slot) (e : Entry) (s : State) : (s.setEntry i e).win = s.win := rfl
@[simp] theorem setEntry_px (i : Slot) (e : Entry) (s : State) : (s.setEntry i e).px = s.px := rfl
@[simp] theorem setEntry_link (i : Slot) (e : Entry) (s : State) : (s.setEntry i e).link = s.link := rfl
@[simp] theorem setEntry_sched (i : Slot) (e : Entry) (s : State) : (s.setEntry i e).sched = s.sched := rfl
@[simp] theorem setEntry_ce (i : Slot) (e : Entry) (s : State) : (s.setEntry i e).ce = s.ce := rfl
@[simp] theorem setEntry_mu (i : Slot) (e : Entry) (s : State) : (s.setEntry i e).mu = s.mu := rfl
@[simp] theorem setEntry_nq (i : Slot) (e : Entry) (s : State) : (s.setEntry i e).nq = s.nq := rfl
@[simp] theorem setEntry_pending (i : Slot) (e : Entry) (s : State) : (s.setEntry i e).pending = s.pending := rfl

/-! ### updEntry -/

@[simp] theorem updEntry_pins (i : Slot) (f : Entry → Entry) (s : State) : (s.updEntry i f).pins = s.pins := rfl
@[simp] theorem updEntry_win (i : Slot) (f : Entry → Entry) (s : State) : (s.updEntry i f).win = s.win := rfl
@[simp] theorem updEntry_px (i : Slot) (f : Entry → Entry) (s : State) : (s.updEntry i f).px = s.px := rfl
@[simp] theorem updEntry_link (i : Slot) (f : Entry → Entry) (s : State) : (s.updEntry i f).link = s.link := rfl
@[simp] theorem updEntry_sched (i : Slot) (f : Entry → Entry) (s : State) : (s.updEntry i f).sched = s.sched := rfl
@[simp] theorem updEntry_ce (i : Slot) (f : Entry → Entry) (s : State) : (s.updEntry i f).ce = s.ce := rfl
@[simp] theorem updEntry_mu (i : Slot) (f : Entry → Entry) (s : State) : (s.updEntry i f).mu = s.mu := rfl
@[simp] theorem updEntry_nq (i : Slot) (f : Entry → Entry) (s : State) : (s.updEntry i f).nq = s.nq := rfl
@[simp] theorem updEntry_pending (i : Slot) (f : Entry → Entry) (s : State) : (s.updEntry i f).pending = s.pending := rfl

/-! ### setAres -/

@[simp] theorem setAres_pins (r : ActionResult) (s : State) : (setAres r s).pins = s.pins := rfl
@[simp] theorem setAres_table (r : ActionResult) (s : State) : (setAres r s).table = s.table := rfl
@[simp] theorem setAres_px (r : ActionResult) (s : State) : (setAres r s).px = s.px := rfl
@[simp] theorem setAres_link (r : ActionResult) (s : State) : (setAres r s).link = s.link := rfl
@[simp] theorem setAres_sched (r : ActionResult) (s : State) : (setAres r s).sched = s.sched := rfl
@[simp] theorem setAres_ce (r : ActionResult) (s : State) : (setAres r s).ce = s.ce := rfl
@[simp] theorem setAres_mu (r : ActionResult) (s : State) : (setAres r s).mu = s.mu := rfl
@[simp] theorem setAres_nq (r : ActionResult) (s : State) : (setAres r s).nq = s.nq := rfl
@[simp] theorem setAres_pending (r : ActionResult) (s : State) : (setAres r s).pending = s.pending := rfl

/-! ### refuseAccess -/

@[simp] theorem refuseAccess_pins (s : State) : (refuseAccess s).pins = s.pins := rfl
@[simp] theorem refuseAccess_table (s : State) : (refuseAccess s).table = s.table := rfl
@[simp] theorem refuseAccess_px (s : State) : (refuseAccess s).px = s.px := rfl
@[simp] theorem refuseAccess_link (s : State) : (refuseAccess s).link = s.link := rfl
@[simp] theorem refuseAccess_sched (s : State) : (refuseAccess s).sched = s.sched := rfl
@[simp] theorem refuseAccess_ce (s : State) : (refuseAccess s).ce = s.ce := rfl
@[simp] theorem refuseAccess_mu (s : State) : (refuseAccess s).mu = s.mu := rfl
@[simp] theorem refuseAccess_nq (s : State) : (refuseAccess s).nq = s.nq := rfl
@[simp] theorem refuseAccess_pending (s : State) : (refuseAccess s).pending = s.pending := rfl

/-! ### driveData -/

@[simp] theorem driveData_win (b : Byte) (s : State) : (driveData b s).win = s.win := rfl
@[simp] theorem driveData_table (b : Byte) (s : State) : (driveData b s).table = s.table := rfl
@[simp] theorem driveData_px (b : Byte) (s : State) : (driveData b s).px = s.px := rfl
@[simp] theorem driveData_link (b : Byte) (s : State) : (driveData b s).link = s.link := rfl
@[simp] theorem driveData_sched (b : Byte) (s : State) : (driveData b s).sched = s.sched := rfl
@[simp] theorem driveData_ce (b : Byte) (s : State) : (driveData b s).ce = s.ce := rfl
@[simp] theorem driveData_mu (b : Byte) (s : State) : (driveData b s).mu = s.mu := rfl
@[simp] theorem driveData_nq (b : Byte) (s : State) : (driveData b s).nq = s.nq := rfl
@[simp] theorem driveData_pending (b : Byte) (s : State) : (driveData b s).pending = s.pending := rfl

/-! ### appendCompletion -/

@[simp] theorem appendCompletion_pins (c : Completion) (s : State) : (appendCompletion c s).pins = s.pins := rfl
@[simp] theorem appendCompletion_win (c : Completion) (s : State) : (appendCompletion c s).win = s.win := rfl
@[simp] theorem appendCompletion_table (c : Completion) (s : State) : (appendCompletion c s).table = s.table := rfl
@[simp] theorem appendCompletion_px (c : Completion) (s : State) : (appendCompletion c s).px = s.px := rfl
@[simp] theorem appendCompletion_link (c : Completion) (s : State) : (appendCompletion c s).link = s.link := rfl
@[simp] theorem appendCompletion_sched (c : Completion) (s : State) : (appendCompletion c s).sched = s.sched := rfl
@[simp] theorem appendCompletion_mu (c : Completion) (s : State) : (appendCompletion c s).mu = s.mu := rfl
@[simp] theorem appendCompletion_nq (c : Completion) (s : State) : (appendCompletion c s).nq = s.nq := rfl
@[simp] theorem appendCompletion_pending (c : Completion) (s : State) : (appendCompletion c s).pending = s.pending := rfl

/-! ### flushSettled -/

@[simp] theorem flushSettled_pins (s : State) : (flushSettled s).pins = s.pins := rfl
@[simp] theorem flushSettled_win (s : State) : (flushSettled s).win = s.win := rfl
@[simp] theorem flushSettled_table (s : State) : (flushSettled s).table = s.table := rfl
@[simp] theorem flushSettled_px (s : State) : (flushSettled s).px = s.px := rfl
@[simp] theorem flushSettled_link (s : State) : (flushSettled s).link = s.link := rfl
@[simp] theorem flushSettled_sched (s : State) : (flushSettled s).sched = s.sched := rfl
@[simp] theorem flushSettled_mu (s : State) : (flushSettled s).mu = s.mu := rfl
@[simp] theorem flushSettled_nq (s : State) : (flushSettled s).nq = s.nq := rfl
@[simp] theorem flushSettled_pending (s : State) : (flushSettled s).pending = s.pending := rfl

/-! ### settle -/

@[simp] theorem settle_pins (pick : QueuedCommand → Bool) (st : CompletionStatus) (s : State) : (settle pick st s).pins = s.pins := rfl
@[simp] theorem settle_win (pick : QueuedCommand → Bool) (st : CompletionStatus) (s : State) : (settle pick st s).win = s.win := rfl
@[simp] theorem settle_table (pick : QueuedCommand → Bool) (st : CompletionStatus) (s : State) : (settle pick st s).table = s.table := rfl
@[simp] theorem settle_px (pick : QueuedCommand → Bool) (st : CompletionStatus) (s : State) : (settle pick st s).px = s.px := rfl
@[simp] theorem settle_link (pick : QueuedCommand → Bool) (st : CompletionStatus) (s : State) : (settle pick st s).link = s.link := rfl
@[simp] theorem settle_sched (pick : QueuedCommand → Bool) (st : CompletionStatus) (s : State) : (settle pick st s).sched = s.sched := rfl
@[simp] theorem settle_mu (pick : QueuedCommand → Bool) (st : CompletionStatus) (s : State) : (settle pick st s).mu = s.mu := rfl
@[simp] theorem settle_nq (pick : QueuedCommand → Bool) (st : CompletionStatus) (s : State) : (settle pick st s).nq = s.nq := rfl
@[simp] theorem settle_pending (pick : QueuedCommand → Bool) (st : CompletionStatus) (s : State) : (settle pick st s).pending = s.pending := rfl

/-! ### settleSlot -/

@[simp] theorem settleSlot_pins (i : Slot) (st : CompletionStatus) (s : State) : (settleSlot i st s).pins = s.pins := rfl
@[simp] theorem settleSlot_win (i : Slot) (st : CompletionStatus) (s : State) : (settleSlot i st s).win = s.win := rfl
@[simp] theorem settleSlot_table (i : Slot) (st : CompletionStatus) (s : State) : (settleSlot i st s).table = s.table := rfl
@[simp] theorem settleSlot_px (i : Slot) (st : CompletionStatus) (s : State) : (settleSlot i st s).px = s.px := rfl
@[simp] theorem settleSlot_link (i : Slot) (st : CompletionStatus) (s : State) : (settleSlot i st s).link = s.link := rfl
@[simp] theorem settleSlot_sched (i : Slot) (st : CompletionStatus) (s : State) : (settleSlot i st s).sched = s.sched := rfl
@[simp] theorem settleSlot_mu (i : Slot) (st : CompletionStatus) (s : State) : (settleSlot i st s).mu = s.mu := rfl
@[simp] theorem settleSlot_nq (i : Slot) (st : CompletionStatus) (s : State) : (settleSlot i st s).nq = s.nq := rfl
@[simp] theorem settleSlot_pending (i : Slot) (st : CompletionStatus) (s : State) : (settleSlot i st s).pending = s.pending := rfl

/-! ### oweVerdict -/

@[simp] theorem oweVerdict_pins (i : Slot) (v : Verdict) (b : Bool) (s : State) : (oweVerdict i v b s).pins = s.pins := rfl
@[simp] theorem oweVerdict_win (i : Slot) (v : Verdict) (b : Bool) (s : State) : (oweVerdict i v b s).win = s.win := rfl
@[simp] theorem oweVerdict_px (i : Slot) (v : Verdict) (b : Bool) (s : State) : (oweVerdict i v b s).px = s.px := rfl
@[simp] theorem oweVerdict_link (i : Slot) (v : Verdict) (b : Bool) (s : State) : (oweVerdict i v b s).link = s.link := rfl
@[simp] theorem oweVerdict_ce (i : Slot) (v : Verdict) (b : Bool) (s : State) : (oweVerdict i v b s).ce = s.ce := rfl
@[simp] theorem oweVerdict_mu (i : Slot) (v : Verdict) (b : Bool) (s : State) : (oweVerdict i v b s).mu = s.mu := rfl
@[simp] theorem oweVerdict_nq (i : Slot) (v : Verdict) (b : Bool) (s : State) : (oweVerdict i v b s).nq = s.nq := rfl
@[simp] theorem oweVerdict_pending (i : Slot) (v : Verdict) (b : Bool) (s : State) : (oweVerdict i v b s).pending = s.pending := rfl

/-! ### clearOwed -/

@[simp] theorem clearOwed_pins (i : Slot) (s : State) : (clearOwed i s).pins = s.pins := rfl
@[simp] theorem clearOwed_win (i : Slot) (s : State) : (clearOwed i s).win = s.win := rfl
@[simp] theorem clearOwed_px (i : Slot) (s : State) : (clearOwed i s).px = s.px := rfl
@[simp] theorem clearOwed_link (i : Slot) (s : State) : (clearOwed i s).link = s.link := rfl
@[simp] theorem clearOwed_ce (i : Slot) (s : State) : (clearOwed i s).ce = s.ce := rfl
@[simp] theorem clearOwed_mu (i : Slot) (s : State) : (clearOwed i s).mu = s.mu := rfl
@[simp] theorem clearOwed_nq (i : Slot) (s : State) : (clearOwed i s).nq = s.nq := rfl
@[simp] theorem clearOwed_pending (i : Slot) (s : State) : (clearOwed i s).pending = s.pending := rfl

/-! ### dropDeferred -/

@[simp] theorem dropDeferred_pins (h : Handle) (c : EndCause) (s : State) : (dropDeferred h c s).pins = s.pins := rfl
@[simp] theorem dropDeferred_win (h : Handle) (c : EndCause) (s : State) : (dropDeferred h c s).win = s.win := rfl
@[simp] theorem dropDeferred_table (h : Handle) (c : EndCause) (s : State) : (dropDeferred h c s).table = s.table := rfl
@[simp] theorem dropDeferred_px (h : Handle) (c : EndCause) (s : State) : (dropDeferred h c s).px = s.px := rfl
@[simp] theorem dropDeferred_link (h : Handle) (c : EndCause) (s : State) : (dropDeferred h c s).link = s.link := rfl
@[simp] theorem dropDeferred_sched (h : Handle) (c : EndCause) (s : State) : (dropDeferred h c s).sched = s.sched := rfl
@[simp] theorem dropDeferred_ce (h : Handle) (c : EndCause) (s : State) : (dropDeferred h c s).ce = s.ce := rfl
@[simp] theorem dropDeferred_nq (h : Handle) (c : EndCause) (s : State) : (dropDeferred h c s).nq = s.nq := rfl
@[simp] theorem dropDeferred_pending (h : Handle) (c : EndCause) (s : State) : (dropDeferred h c s).pending = s.pending := rfl

/-! ### decideEntry -/

@[simp] theorem decideEntry_pins (d : Deferred) (x : Decision) (s : State) : (decideEntry d x s).pins = s.pins := rfl
@[simp] theorem decideEntry_win (d : Deferred) (x : Decision) (s : State) : (decideEntry d x s).win = s.win := rfl
@[simp] theorem decideEntry_px (d : Deferred) (x : Decision) (s : State) : (decideEntry d x s).px = s.px := rfl
@[simp] theorem decideEntry_link (d : Deferred) (x : Decision) (s : State) : (decideEntry d x s).link = s.link := rfl
@[simp] theorem decideEntry_ce (d : Deferred) (x : Decision) (s : State) : (decideEntry d x s).ce = s.ce := rfl
@[simp] theorem decideEntry_nq (d : Deferred) (x : Decision) (s : State) : (decideEntry d x s).nq = s.nq := rfl
@[simp] theorem decideEntry_pending (d : Deferred) (x : Decision) (s : State) : (decideEntry d x s).pending = s.pending := rfl

/-! ### setLink -/

@[simp] theorem setLink_pins (l : LinkEngine) (s : State) : (s.setLink l).pins = s.pins := rfl
@[simp] theorem setLink_win (l : LinkEngine) (s : State) : (s.setLink l).win = s.win := rfl
@[simp] theorem setLink_table (l : LinkEngine) (s : State) : (s.setLink l).table = s.table := rfl
@[simp] theorem setLink_px (l : LinkEngine) (s : State) : (s.setLink l).px = s.px := rfl
@[simp] theorem setLink_sched (l : LinkEngine) (s : State) : (s.setLink l).sched = s.sched := rfl
@[simp] theorem setLink_ce (l : LinkEngine) (s : State) : (s.setLink l).ce = s.ce := rfl
@[simp] theorem setLink_mu (l : LinkEngine) (s : State) : (s.setLink l).mu = s.mu := rfl
@[simp] theorem setLink_nq (l : LinkEngine) (s : State) : (s.setLink l).nq = s.nq := rfl
@[simp] theorem setLink_pending (l : LinkEngine) (s : State) : (s.setLink l).pending = s.pending := rfl

/-! ### enterOff -/

@[simp] theorem enterOff_pins (s : State) : (enterOff s).pins = s.pins := rfl
@[simp] theorem enterOff_win (s : State) : (enterOff s).win = s.win := rfl
@[simp] theorem enterOff_table (s : State) : (enterOff s).table = s.table := rfl
@[simp] theorem enterOff_px (s : State) : (enterOff s).px = s.px := rfl
@[simp] theorem enterOff_sched (s : State) : (enterOff s).sched = s.sched := rfl
@[simp] theorem enterOff_ce (s : State) : (enterOff s).ce = s.ce := rfl
@[simp] theorem enterOff_mu (s : State) : (enterOff s).mu = s.mu := rfl
@[simp] theorem enterOff_nq (s : State) : (enterOff s).nq = s.nq := rfl
@[simp] theorem enterOff_pending (s : State) : (enterOff s).pending = s.pending := rfl

/-! ### enterIdle -/

@[simp] theorem enterIdle_pins (s : State) : (enterIdle s).pins = s.pins := rfl
@[simp] theorem enterIdle_win (s : State) : (enterIdle s).win = s.win := rfl
@[simp] theorem enterIdle_table (s : State) : (enterIdle s).table = s.table := rfl
@[simp] theorem enterIdle_px (s : State) : (enterIdle s).px = s.px := rfl
@[simp] theorem enterIdle_sched (s : State) : (enterIdle s).sched = s.sched := rfl
@[simp] theorem enterIdle_ce (s : State) : (enterIdle s).ce = s.ce := rfl
@[simp] theorem enterIdle_mu (s : State) : (enterIdle s).mu = s.mu := rfl
@[simp] theorem enterIdle_nq (s : State) : (enterIdle s).nq = s.nq := rfl
@[simp] theorem enterIdle_pending (s : State) : (enterIdle s).pending = s.pending := rfl

/-! ### startExchange -/

@[simp] theorem startExchange_pins (s : State) : (startExchange s).pins = s.pins := rfl
@[simp] theorem startExchange_win (s : State) : (startExchange s).win = s.win := rfl
@[simp] theorem startExchange_table (s : State) : (startExchange s).table = s.table := rfl
@[simp] theorem startExchange_px (s : State) : (startExchange s).px = s.px := rfl
@[simp] theorem startExchange_sched (s : State) : (startExchange s).sched = s.sched := rfl
@[simp] theorem startExchange_ce (s : State) : (startExchange s).ce = s.ce := rfl
@[simp] theorem startExchange_mu (s : State) : (startExchange s).mu = s.mu := rfl
@[simp] theorem startExchange_nq (s : State) : (startExchange s).nq = s.nq := rfl
@[simp] theorem startExchange_pending (s : State) : (startExchange s).pending = s.pending := rfl

/-! ### handIn -/

@[simp] theorem handIn_pins (c : Call) (s : State) : (handIn c s).pins = s.pins := rfl
@[simp] theorem handIn_win (c : Call) (s : State) : (handIn c s).win = s.win := rfl
@[simp] theorem handIn_table (c : Call) (s : State) : (handIn c s).table = s.table := rfl
@[simp] theorem handIn_px (c : Call) (s : State) : (handIn c s).px = s.px := rfl
@[simp] theorem handIn_sched (c : Call) (s : State) : (handIn c s).sched = s.sched := rfl
@[simp] theorem handIn_ce (c : Call) (s : State) : (handIn c s).ce = s.ce := rfl
@[simp] theorem handIn_mu (c : Call) (s : State) : (handIn c s).mu = s.mu := rfl
@[simp] theorem handIn_nq (c : Call) (s : State) : (handIn c s).nq = s.nq := rfl
@[simp] theorem handIn_pending (c : Call) (s : State) : (handIn c s).pending = s.pending := rfl

/-! ### enterBroadcasting -/

@[simp] theorem enterBroadcasting_pins (s : State) : (enterBroadcasting s).pins = s.pins := rfl
@[simp] theorem enterBroadcasting_win (s : State) : (enterBroadcasting s).win = s.win := rfl
@[simp] theorem enterBroadcasting_table (s : State) : (enterBroadcasting s).table = s.table := rfl
@[simp] theorem enterBroadcasting_px (s : State) : (enterBroadcasting s).px = s.px := rfl
@[simp] theorem enterBroadcasting_sched (s : State) : (enterBroadcasting s).sched = s.sched := rfl
@[simp] theorem enterBroadcasting_ce (s : State) : (enterBroadcasting s).ce = s.ce := rfl
@[simp] theorem enterBroadcasting_mu (s : State) : (enterBroadcasting s).mu = s.mu := rfl
@[simp] theorem enterBroadcasting_nq (s : State) : (enterBroadcasting s).nq = s.nq := rfl
@[simp] theorem enterBroadcasting_pending (s : State) : (enterBroadcasting s).pending = s.pending := rfl

/-! ### acceptCommand -/

@[simp] theorem acceptCommand_pins (c : Command) (s : State) : (acceptCommand c s).pins = s.pins := rfl
@[simp] theorem acceptCommand_win (c : Command) (s : State) : (acceptCommand c s).win = s.win := rfl
@[simp] theorem acceptCommand_table (c : Command) (s : State) : (acceptCommand c s).table = s.table := rfl
@[simp] theorem acceptCommand_px (c : Command) (s : State) : (acceptCommand c s).px = s.px := rfl
@[simp] theorem acceptCommand_link (c : Command) (s : State) : (acceptCommand c s).link = s.link := rfl
@[simp] theorem acceptCommand_sched (c : Command) (s : State) : (acceptCommand c s).sched = s.sched := rfl
@[simp] theorem acceptCommand_mu (c : Command) (s : State) : (acceptCommand c s).mu = s.mu := rfl
@[simp] theorem acceptCommand_nq (c : Command) (s : State) : (acceptCommand c s).nq = s.nq := rfl
@[simp] theorem acceptCommand_pending (c : Command) (s : State) : (acceptCommand c s).pending = s.pending := rfl

/-! ### startCommand -/

@[simp] theorem startCommand_pins (q : QueuedCommand) (s : State) : (startCommand q s).pins = s.pins := rfl
@[simp] theorem startCommand_win (q : QueuedCommand) (s : State) : (startCommand q s).win = s.win := rfl
@[simp] theorem startCommand_px (q : QueuedCommand) (s : State) : (startCommand q s).px = s.px := rfl
@[simp] theorem startCommand_sched (q : QueuedCommand) (s : State) : (startCommand q s).sched = s.sched := rfl
@[simp] theorem startCommand_mu (q : QueuedCommand) (s : State) : (startCommand q s).mu = s.mu := rfl
@[simp] theorem startCommand_nq (q : QueuedCommand) (s : State) : (startCommand q s).nq = s.nq := rfl
@[simp] theorem startCommand_pending (q : QueuedCommand) (s : State) : (startCommand q s).pending = s.pending := rfl

/-! ### clearInFlight -/

@[simp] theorem clearInFlight_pins (s : State) : (clearInFlight s).pins = s.pins := rfl
@[simp] theorem clearInFlight_win (s : State) : (clearInFlight s).win = s.win := rfl
@[simp] theorem clearInFlight_table (s : State) : (clearInFlight s).table = s.table := rfl
@[simp] theorem clearInFlight_px (s : State) : (clearInFlight s).px = s.px := rfl
@[simp] theorem clearInFlight_link (s : State) : (clearInFlight s).link = s.link := rfl
@[simp] theorem clearInFlight_sched (s : State) : (clearInFlight s).sched = s.sched := rfl
@[simp] theorem clearInFlight_mu (s : State) : (clearInFlight s).mu = s.mu := rfl
@[simp] theorem clearInFlight_nq (s : State) : (clearInFlight s).nq = s.nq := rfl
@[simp] theorem clearInFlight_pending (s : State) : (clearInFlight s).pending = s.pending := rfl

/-! ### markInFlight -/

@[simp] theorem markInFlight_pins (m : EndMark) (s : State) : (markInFlight m s).pins = s.pins := rfl
@[simp] theorem markInFlight_win (m : EndMark) (s : State) : (markInFlight m s).win = s.win := rfl
@[simp] theorem markInFlight_table (m : EndMark) (s : State) : (markInFlight m s).table = s.table := rfl
@[simp] theorem markInFlight_px (m : EndMark) (s : State) : (markInFlight m s).px = s.px := rfl
@[simp] theorem markInFlight_link (m : EndMark) (s : State) : (markInFlight m s).link = s.link := rfl
@[simp] theorem markInFlight_sched (m : EndMark) (s : State) : (markInFlight m s).sched = s.sched := rfl
@[simp] theorem markInFlight_mu (m : EndMark) (s : State) : (markInFlight m s).mu = s.mu := rfl
@[simp] theorem markInFlight_nq (m : EndMark) (s : State) : (markInFlight m s).nq = s.nq := rfl
@[simp] theorem markInFlight_pending (m : EndMark) (s : State) : (markInFlight m s).pending = s.pending := rfl

/-! ### endInFlight -/

@[simp] theorem endInFlight_pins (f : InFlight) (st : CompletionStatus) (b : Byte) (l : List Byte) (s : State) : (endInFlight f st b l s).pins = s.pins := rfl
@[simp] theorem endInFlight_win (f : InFlight) (st : CompletionStatus) (b : Byte) (l : List Byte) (s : State) : (endInFlight f st b l s).win = s.win := rfl
@[simp] theorem endInFlight_table (f : InFlight) (st : CompletionStatus) (b : Byte) (l : List Byte) (s : State) : (endInFlight f st b l s).table = s.table := rfl
@[simp] theorem endInFlight_px (f : InFlight) (st : CompletionStatus) (b : Byte) (l : List Byte) (s : State) : (endInFlight f st b l s).px = s.px := rfl
@[simp] theorem endInFlight_link (f : InFlight) (st : CompletionStatus) (b : Byte) (l : List Byte) (s : State) : (endInFlight f st b l s).link = s.link := rfl
@[simp] theorem endInFlight_sched (f : InFlight) (st : CompletionStatus) (b : Byte) (l : List Byte) (s : State) : (endInFlight f st b l s).sched = s.sched := rfl
@[simp] theorem endInFlight_mu (f : InFlight) (st : CompletionStatus) (b : Byte) (l : List Byte) (s : State) : (endInFlight f st b l s).mu = s.mu := rfl
@[simp] theorem endInFlight_nq (f : InFlight) (st : CompletionStatus) (b : Byte) (l : List Byte) (s : State) : (endInFlight f st b l s).nq = s.nq := rfl
@[simp] theorem endInFlight_pending (f : InFlight) (st : CompletionStatus) (b : Byte) (l : List Byte) (s : State) : (endInFlight f st b l s).pending = s.pending := rfl

/-! ### setContext -/

@[simp] theorem setContext_pins (i : Slot) (c : Context) (s : State) : (setContext i c s).pins = s.pins := rfl
@[simp] theorem setContext_win (i : Slot) (c : Context) (s : State) : (setContext i c s).win = s.win := rfl
@[simp] theorem setContext_px (i : Slot) (c : Context) (s : State) : (setContext i c s).px = s.px := rfl
@[simp] theorem setContext_link (i : Slot) (c : Context) (s : State) : (setContext i c s).link = s.link := rfl
@[simp] theorem setContext_sched (i : Slot) (c : Context) (s : State) : (setContext i c s).sched = s.sched := rfl
@[simp] theorem setContext_ce (i : Slot) (c : Context) (s : State) : (setContext i c s).ce = s.ce := rfl
@[simp] theorem setContext_mu (i : Slot) (c : Context) (s : State) : (setContext i c s).mu = s.mu := rfl
@[simp] theorem setContext_nq (i : Slot) (c : Context) (s : State) : (setContext i c s).nq = s.nq := rfl
@[simp] theorem setContext_pending (i : Slot) (c : Context) (s : State) : (setContext i c s).pending = s.pending := rfl

/-! ### clearMisses -/

@[simp] theorem clearMisses_pins (i : Slot) (s : State) : (clearMisses i s).pins = s.pins := rfl
@[simp] theorem clearMisses_win (i : Slot) (s : State) : (clearMisses i s).win = s.win := rfl
@[simp] theorem clearMisses_px (i : Slot) (s : State) : (clearMisses i s).px = s.px := rfl
@[simp] theorem clearMisses_link (i : Slot) (s : State) : (clearMisses i s).link = s.link := rfl
@[simp] theorem clearMisses_sched (i : Slot) (s : State) : (clearMisses i s).sched = s.sched := rfl
@[simp] theorem clearMisses_ce (i : Slot) (s : State) : (clearMisses i s).ce = s.ce := rfl
@[simp] theorem clearMisses_mu (i : Slot) (s : State) : (clearMisses i s).mu = s.mu := rfl
@[simp] theorem clearMisses_nq (i : Slot) (s : State) : (clearMisses i s).nq = s.nq := rfl
@[simp] theorem clearMisses_pending (i : Slot) (s : State) : (clearMisses i s).pending = s.pending := rfl

/-! ### setNextPoll -/

@[simp] theorem setNextPoll_pins (i : Slot) (s : State) : (setNextPoll i s).pins = s.pins := rfl
@[simp] theorem setNextPoll_win (i : Slot) (s : State) : (setNextPoll i s).win = s.win := rfl
@[simp] theorem setNextPoll_px (i : Slot) (s : State) : (setNextPoll i s).px = s.px := rfl
@[simp] theorem setNextPoll_link (i : Slot) (s : State) : (setNextPoll i s).link = s.link := rfl
@[simp] theorem setNextPoll_sched (i : Slot) (s : State) : (setNextPoll i s).sched = s.sched := rfl
@[simp] theorem setNextPoll_ce (i : Slot) (s : State) : (setNextPoll i s).ce = s.ce := rfl
@[simp] theorem setNextPoll_mu (i : Slot) (s : State) : (setNextPoll i s).mu = s.mu := rfl
@[simp] theorem setNextPoll_nq (i : Slot) (s : State) : (setNextPoll i s).nq = s.nq := rfl
@[simp] theorem setNextPoll_pending (i : Slot) (s : State) : (setNextPoll i s).pending = s.pending := rfl

/-! ### recordLfltn -/

@[simp] theorem recordLfltn_win (l : Level) (s : State) : (recordLfltn l s).win = s.win := rfl
@[simp] theorem recordLfltn_table (l : Level) (s : State) : (recordLfltn l s).table = s.table := rfl
@[simp] theorem recordLfltn_px (l : Level) (s : State) : (recordLfltn l s).px = s.px := rfl
@[simp] theorem recordLfltn_link (l : Level) (s : State) : (recordLfltn l s).link = s.link := rfl
@[simp] theorem recordLfltn_sched (l : Level) (s : State) : (recordLfltn l s).sched = s.sched := rfl
@[simp] theorem recordLfltn_ce (l : Level) (s : State) : (recordLfltn l s).ce = s.ce := rfl
@[simp] theorem recordLfltn_mu (l : Level) (s : State) : (recordLfltn l s).mu = s.mu := rfl
@[simp] theorem recordLfltn_nq (l : Level) (s : State) : (recordLfltn l s).nq = s.nq := rfl
@[simp] theorem recordLfltn_pending (l : Level) (s : State) : (recordLfltn l s).pending = s.pending := rfl

/-! ### beginGap -/

@[simp] theorem beginGap_pins (s : State) : (beginGap s).pins = s.pins := rfl
@[simp] theorem beginGap_win (s : State) : (beginGap s).win = s.win := rfl
@[simp] theorem beginGap_table (s : State) : (beginGap s).table = s.table := rfl
@[simp] theorem beginGap_px (s : State) : (beginGap s).px = s.px := rfl
@[simp] theorem beginGap_sched (s : State) : (beginGap s).sched = s.sched := rfl
@[simp] theorem beginGap_ce (s : State) : (beginGap s).ce = s.ce := rfl
@[simp] theorem beginGap_mu (s : State) : (beginGap s).mu = s.mu := rfl
@[simp] theorem beginGap_nq (s : State) : (beginGap s).nq = s.nq := rfl
@[simp] theorem beginGap_pending (s : State) : (beginGap s).pending = s.pending := rfl

/-! ### stepOffset -/

@[simp] theorem stepOffset_pins (s : State) : (stepOffset s).pins = s.pins := rfl
@[simp] theorem stepOffset_table (s : State) : (stepOffset s).table = s.table := rfl
@[simp] theorem stepOffset_px (s : State) : (stepOffset s).px = s.px := rfl
@[simp] theorem stepOffset_link (s : State) : (stepOffset s).link = s.link := rfl
@[simp] theorem stepOffset_sched (s : State) : (stepOffset s).sched = s.sched := rfl
@[simp] theorem stepOffset_ce (s : State) : (stepOffset s).ce = s.ce := rfl
@[simp] theorem stepOffset_mu (s : State) : (stepOffset s).mu = s.mu := rfl
@[simp] theorem stepOffset_nq (s : State) : (stepOffset s).nq = s.nq := rfl
@[simp] theorem stepOffset_pending (s : State) : (stepOffset s).pending = s.pending := rfl

/-! ### clearRefused -/

@[simp] theorem clearRefused_pins (s : State) : (clearRefused s).pins = s.pins := rfl
@[simp] theorem clearRefused_table (s : State) : (clearRefused s).table = s.table := rfl
@[simp] theorem clearRefused_px (s : State) : (clearRefused s).px = s.px := rfl
@[simp] theorem clearRefused_link (s : State) : (clearRefused s).link = s.link := rfl
@[simp] theorem clearRefused_sched (s : State) : (clearRefused s).sched = s.sched := rfl
@[simp] theorem clearRefused_ce (s : State) : (clearRefused s).ce = s.ce := rfl
@[simp] theorem clearRefused_mu (s : State) : (clearRefused s).mu = s.mu := rfl
@[simp] theorem clearRefused_nq (s : State) : (clearRefused s).nq = s.nq := rfl
@[simp] theorem clearRefused_pending (s : State) : (clearRefused s).pending = s.pending := rfl

/-! ### writeIen -/

@[simp] theorem writeIen_pins (b : Byte) (s : State) : (writeIen b s).pins = s.pins := rfl
@[simp] theorem writeIen_table (b : Byte) (s : State) : (writeIen b s).table = s.table := rfl
@[simp] theorem writeIen_px (b : Byte) (s : State) : (writeIen b s).px = s.px := rfl
@[simp] theorem writeIen_link (b : Byte) (s : State) : (writeIen b s).link = s.link := rfl
@[simp] theorem writeIen_sched (b : Byte) (s : State) : (writeIen b s).sched = s.sched := rfl
@[simp] theorem writeIen_ce (b : Byte) (s : State) : (writeIen b s).ce = s.ce := rfl
@[simp] theorem writeIen_mu (b : Byte) (s : State) : (writeIen b s).mu = s.mu := rfl
@[simp] theorem writeIen_nq (b : Byte) (s : State) : (writeIen b s).nq = s.nq := rfl
@[simp] theorem writeIen_pending (b : Byte) (s : State) : (writeIen b s).pending = s.pending := rfl

/-! ### writeWoff -/

@[simp] theorem writeWoff_pins (b : Byte) (s : State) : (writeWoff b s).pins = s.pins := rfl
@[simp] theorem writeWoff_table (b : Byte) (s : State) : (writeWoff b s).table = s.table := rfl
@[simp] theorem writeWoff_px (b : Byte) (s : State) : (writeWoff b s).px = s.px := rfl
@[simp] theorem writeWoff_link (b : Byte) (s : State) : (writeWoff b s).link = s.link := rfl
@[simp] theorem writeWoff_sched (b : Byte) (s : State) : (writeWoff b s).sched = s.sched := rfl
@[simp] theorem writeWoff_ce (b : Byte) (s : State) : (writeWoff b s).ce = s.ce := rfl
@[simp] theorem writeWoff_mu (b : Byte) (s : State) : (writeWoff b s).mu = s.mu := rfl
@[simp] theorem writeWoff_nq (b : Byte) (s : State) : (writeWoff b s).nq = s.nq := rfl
@[simp] theorem writeWoff_pending (b : Byte) (s : State) : (writeWoff b s).pending = s.pending := rfl

/-! ### writeArg -/

@[simp] theorem writeArg_pins (k : Fin 4) (b : Byte) (s : State) : (writeArg k b s).pins = s.pins := rfl
@[simp] theorem writeArg_table (k : Fin 4) (b : Byte) (s : State) : (writeArg k b s).table = s.table := rfl
@[simp] theorem writeArg_px (k : Fin 4) (b : Byte) (s : State) : (writeArg k b s).px = s.px := rfl
@[simp] theorem writeArg_link (k : Fin 4) (b : Byte) (s : State) : (writeArg k b s).link = s.link := rfl
@[simp] theorem writeArg_sched (k : Fin 4) (b : Byte) (s : State) : (writeArg k b s).sched = s.sched := rfl
@[simp] theorem writeArg_ce (k : Fin 4) (b : Byte) (s : State) : (writeArg k b s).ce = s.ce := rfl
@[simp] theorem writeArg_mu (k : Fin 4) (b : Byte) (s : State) : (writeArg k b s).mu = s.mu := rfl
@[simp] theorem writeArg_nq (k : Fin 4) (b : Byte) (s : State) : (writeArg k b s).nq = s.nq := rfl
@[simp] theorem writeArg_pending (k : Fin 4) (b : Byte) (s : State) : (writeArg k b s).pending = s.pending := rfl

/-! ### oweRelease -/

@[simp] theorem oweRelease_pins (i : Slot) (s : State) : (oweRelease i s).pins = s.pins := rfl
@[simp] theorem oweRelease_win (i : Slot) (s : State) : (oweRelease i s).win = s.win := rfl
@[simp] theorem oweRelease_px (i : Slot) (s : State) : (oweRelease i s).px = s.px := rfl
@[simp] theorem oweRelease_link (i : Slot) (s : State) : (oweRelease i s).link = s.link := rfl
@[simp] theorem oweRelease_sched (i : Slot) (s : State) : (oweRelease i s).sched = s.sched := rfl
@[simp] theorem oweRelease_ce (i : Slot) (s : State) : (oweRelease i s).ce = s.ce := rfl
@[simp] theorem oweRelease_mu (i : Slot) (s : State) : (oweRelease i s).mu = s.mu := rfl
@[simp] theorem oweRelease_nq (i : Slot) (s : State) : (oweRelease i s).nq = s.nq := rfl
@[simp] theorem oweRelease_pending (i : Slot) (s : State) : (oweRelease i s).pending = s.pending := rfl

/-! ### clearCensus -/

@[simp] theorem clearCensus_pins (i : Slot) (s : State) : (clearCensus i s).pins = s.pins := rfl
@[simp] theorem clearCensus_win (i : Slot) (s : State) : (clearCensus i s).win = s.win := rfl
@[simp] theorem clearCensus_px (i : Slot) (s : State) : (clearCensus i s).px = s.px := rfl
@[simp] theorem clearCensus_link (i : Slot) (s : State) : (clearCensus i s).link = s.link := rfl
@[simp] theorem clearCensus_sched (i : Slot) (s : State) : (clearCensus i s).sched = s.sched := rfl
@[simp] theorem clearCensus_ce (i : Slot) (s : State) : (clearCensus i s).ce = s.ce := rfl
@[simp] theorem clearCensus_mu (i : Slot) (s : State) : (clearCensus i s).mu = s.mu := rfl
@[simp] theorem clearCensus_nq (i : Slot) (s : State) : (clearCensus i s).nq = s.nq := rfl
@[simp] theorem clearCensus_pending (i : Slot) (s : State) : (clearCensus i s).pending = s.pending := rfl

/-! ### msTick -/

@[simp] theorem msTick_win (l r : Level) (s : State) : (msTick l r s).win = s.win := rfl
@[simp] theorem msTick_px (l r : Level) (s : State) : (msTick l r s).px = s.px := rfl
@[simp] theorem msTick_nq (l r : Level) (s : State) : (msTick l r s).nq = s.nq := rfl
@[simp] theorem msTick_pending (l r : Level) (s : State) : (msTick l r s).pending = s.pending := rfl

/-! ### softReset -/

@[simp] theorem softReset_pins (s : State) : (softReset s).pins = s.pins := rfl
@[simp] theorem softReset_px (s : State) : (softReset s).px = s.px := rfl
@[simp] theorem softReset_pending (s : State) : (softReset s).pending = s.pending := rfl

/-! ### The fields written -/

@[simp] theorem setEntry_table (i : Slot) (e : Entry) (s : State) : (s.setEntry i e).table = s.table.set i.val e := rfl

@[simp] theorem setLink_link (l : LinkEngine) (s : State) : (s.setLink l).link = l := rfl

@[simp] theorem setAres_win (r : ActionResult) (s : State) : (setAres r s).win = { s.win with ares := r } := rfl

@[simp] theorem refuseAccess_win (s : State) : (refuseAccess s).win = { s.win with refused := true } := rfl

@[simp] theorem driveData_pins (b : Byte) (s : State) : (driveData b s).pins = { s.pins with readData := b } := rfl

@[simp] theorem clearInFlight_ce (s : State) : (clearInFlight s).ce = { s.ce with inFlight := none } := rfl

@[simp] theorem appendCompletion_ce (c : Completion) (s : State) :
    (appendCompletion c s).ce = { s.ce with completions := s.ce.completions ++ [c] } := rfl

@[simp] theorem markInFlight_ce (m : EndMark) (s : State) :
    (markInFlight m s).ce = { s.ce with inFlight := s.ce.inFlight.map (InFlight.addMark m) } := rfl

@[simp] theorem stepOffset_win (s : State) :
    (stepOffset s).win = { s.win with offset := min (s.win.offset + 1) Config.lastOffset } := rfl

@[simp] theorem recordLfltn_pins (l : Level) (s : State) : (recordLfltn l s).pins = { s.pins with lfltn := l } := rfl

@[simp] theorem dropDeferred_queue (h : Handle) (c : EndCause) (s : State) :
    (dropDeferred h c s).mu.queue = s.mu.queue.filter (fun d => d.handle != h) := rfl

@[simp] theorem dropDeferred_timeout (h : Handle) (c : EndCause) (s : State) :
    (dropDeferred h c s).mu.timeout = s.mu.timeout := rfl

@[simp] theorem clearOwed_owed (i : Slot) (s : State) :
    (clearOwed i s).sched = { s.sched with owed := s.sched.owed.filter fun j => j != i } := rfl

/-! ### A conditional update -/

@[simp] theorem whileRunning_high (f : State → State) (s : State) (h : s.pins.resetn = .high) :
    whileRunning f s = f s := by
  simp [whileRunning, h]

@[simp] theorem whileRunning_low (f : State → State) (s : State) (h : s.pins.resetn = .low) :
    whileRunning f s = s := by
  simp [whileRunning, h]

end Sys2Proof.Machine
end

