-- ==== Sys2Proof/Laws/Ops.lean ====
section
/-! SUPPORT. What the shared operations that branch leave alone, and what any operation does to the entry of a slot. -/

namespace Sys2Proof.Machine

/-! ### The entry of a slot -/

theorem entry_setEntry (i j : Slot) (e : Entry) (s : State) :
    (s.setEntry i e).entry j = if j = i then e else s.entry j := by
  unfold State.entry State.setEntry
  by_cases h : j = i
  · subst h
    simp
  · have : i.val ≠ j.val := fun k => h (Fin.ext k.symm)
    simp [h, this]

@[simp] theorem entry_setEntry_same (i : Slot) (e : Entry) (s : State) : (s.setEntry i e).entry i = e := by
  simp [entry_setEntry]

theorem entry_setEntry_ne {i j : Slot} (h : j ≠ i) (e : Entry) (s : State) :
    (s.setEntry i e).entry j = s.entry j := by
  simp [entry_setEntry, h]

theorem entry_updEntry (i j : Slot) (f : Entry → Entry) (s : State) :
    (s.updEntry i f).entry j = if j = i then f (s.entry i) else s.entry j := by
  simp [State.updEntry, entry_setEntry]

@[simp] theorem entry_updEntry_same (i : Slot) (f : Entry → Entry) (s : State) :
    (s.updEntry i f).entry i = f (s.entry i) := by
  simp [entry_updEntry]

theorem entry_updEntry_ne {i j : Slot} (h : j ≠ i) (f : Entry → Entry) (s : State) :
    (s.updEntry i f).entry j = s.entry j := by
  simp [entry_updEntry, h]

theorem entry_congr {s t : State} (h : s.table = t.table) (i : Slot) : s.entry i = t.entry i := by
  simp [State.entry, h]

/-! ### Operations that leave every entry alone -/

@[simp] theorem setAres_entry (r : ActionResult) (s : State) (j : Slot) :
    (setAres r s).entry j = s.entry j := rfl

@[simp] theorem refuseAccess_entry (s : State) (j : Slot) :
    (refuseAccess s).entry j = s.entry j := rfl

@[simp] theorem driveData_entry (b : Byte) (s : State) (j : Slot) :
    (driveData b s).entry j = s.entry j := rfl

@[simp] theorem appendCompletion_entry (c : Completion) (s : State) (j : Slot) :
    (appendCompletion c s).entry j = s.entry j := rfl

@[simp] theorem flushSettled_entry (s : State) (j : Slot) :
    (flushSettled s).entry j = s.entry j := rfl

@[simp] theorem settle_entry (pick : QueuedCommand → Bool) (st : CompletionStatus) (s : State) (j : Slot) :
    (settle pick st s).entry j = s.entry j := rfl

@[simp] theorem settleSlot_entry (i : Slot) (st : CompletionStatus) (s : State) (j : Slot) :
    (settleSlot i st s).entry j = s.entry j := rfl

@[simp] theorem dropDeferred_entry (h : Handle) (c : EndCause) (s : State) (j : Slot) :
    (dropDeferred h c s).entry j = s.entry j := rfl

@[simp] theorem setLink_entry (l : LinkEngine) (s : State) (j : Slot) :
    (s.setLink l).entry j = s.entry j := rfl

@[simp] theorem enterOff_entry (s : State) (j : Slot) :
    (enterOff s).entry j = s.entry j := rfl

@[simp] theorem enterIdle_entry (s : State) (j : Slot) :
    (enterIdle s).entry j = s.entry j := rfl

@[simp] theorem startExchange_entry (s : State) (j : Slot) :
    (startExchange s).entry j = s.entry j := rfl

@[simp] theorem handIn_entry (c : Call) (s : State) (j : Slot) :
    (handIn c s).entry j = s.entry j := rfl

@[simp] theorem enterBroadcasting_entry (s : State) (j : Slot) :
    (enterBroadcasting s).entry j = s.entry j := rfl

@[simp] theorem acceptCommand_entry (c : Command) (s : State) (j : Slot) :
    (acceptCommand c s).entry j = s.entry j := rfl

@[simp] theorem clearInFlight_entry (s : State) (j : Slot) :
    (clearInFlight s).entry j = s.entry j := rfl

@[simp] theorem markInFlight_entry (m : EndMark) (s : State) (j : Slot) :
    (markInFlight m s).entry j = s.entry j := rfl

@[simp] theorem endInFlight_entry (f : InFlight) (st : CompletionStatus) (b : Byte) (l : List Byte) (s : State) (j : Slot) :
    (endInFlight f st b l s).entry j = s.entry j := rfl

@[simp] theorem recordLfltn_entry (l : Level) (s : State) (j : Slot) :
    (recordLfltn l s).entry j = s.entry j := rfl

@[simp] theorem beginGap_entry (s : State) (j : Slot) :
    (beginGap s).entry j = s.entry j := rfl

@[simp] theorem stepOffset_entry (s : State) (j : Slot) :
    (stepOffset s).entry j = s.entry j := rfl

@[simp] theorem clearRefused_entry (s : State) (j : Slot) :
    (clearRefused s).entry j = s.entry j := rfl

@[simp] theorem writeIen_entry (b : Byte) (s : State) (j : Slot) :
    (writeIen b s).entry j = s.entry j := rfl

@[simp] theorem writeWoff_entry (b : Byte) (s : State) (j : Slot) :
    (writeWoff b s).entry j = s.entry j := rfl

@[simp] theorem writeArg_entry (k : Fin 4) (b : Byte) (s : State) (j : Slot) :
    (writeArg k b s).entry j = s.entry j := rfl

/-! ### post -/

@[simp] theorem post_pins (k : NoticeKind) (a b : Byte) (s : State) : (post k a b s).pins = s.pins := by
  unfold post
  repeat' split
  all_goals simp_all
@[simp] theorem post_win (k : NoticeKind) (a b : Byte) (s : State) : (post k a b s).win = s.win := by
  unfold post
  repeat' split
  all_goals simp_all
@[simp] theorem post_table (k : NoticeKind) (a b : Byte) (s : State) : (post k a b s).table = s.table := by
  unfold post
  repeat' split
  all_goals simp_all
@[simp] theorem post_px (k : NoticeKind) (a b : Byte) (s : State) : (post k a b s).px = s.px := by
  unfold post
  repeat' split
  all_goals simp_all
@[simp] theorem post_link (k : NoticeKind) (a b : Byte) (s : State) : (post k a b s).link = s.link := by
  unfold post
  repeat' split
  all_goals simp_all
@[simp] theorem post_sched (k : NoticeKind) (a b : Byte) (s : State) : (post k a b s).sched = s.sched := by
  unfold post
  repeat' split
  all_goals simp_all
@[simp] theorem post_ce (k : NoticeKind) (a b : Byte) (s : State) : (post k a b s).ce = s.ce := by
  unfold post
  repeat' split
  all_goals simp_all
@[simp] theorem post_mu (k : NoticeKind) (a b : Byte) (s : State) : (post k a b s).mu = s.mu := by
  unfold post
  repeat' split
  all_goals simp_all
@[simp] theorem post_pending (k : NoticeKind) (a b : Byte) (s : State) : (post k a b s).pending = s.pending := by
  unfold post
  repeat' split
  all_goals simp_all
@[simp] theorem post_entry (k : NoticeKind) (a b : Byte) (s : State) (j : Slot) : (post k a b s).entry j = s.entry j :=
  entry_congr (post_table _ _ _ s) j


/-! ### completeOutstanding -/

@[simp] theorem completeOutstanding_pins (i : Slot) (st : CompletionStatus) (l : List Byte) (s : State) : (completeOutstanding i st l s).pins = s.pins := by
  unfold completeOutstanding
  repeat' split
  all_goals simp_all
@[simp] theorem completeOutstanding_win (i : Slot) (st : CompletionStatus) (l : List Byte) (s : State) : (completeOutstanding i st l s).win = s.win := by
  unfold completeOutstanding
  repeat' split
  all_goals simp_all
@[simp] theorem completeOutstanding_px (i : Slot) (st : CompletionStatus) (l : List Byte) (s : State) : (completeOutstanding i st l s).px = s.px := by
  unfold completeOutstanding
  repeat' split
  all_goals simp_all
@[simp] theorem completeOutstanding_link (i : Slot) (st : CompletionStatus) (l : List Byte) (s : State) : (completeOutstanding i st l s).link = s.link := by
  unfold completeOutstanding
  repeat' split
  all_goals simp_all
@[simp] theorem completeOutstanding_sched (i : Slot) (st : CompletionStatus) (l : List Byte) (s : State) : (completeOutstanding i st l s).sched = s.sched := by
  unfold completeOutstanding
  repeat' split
  all_goals simp_all
@[simp] theorem completeOutstanding_mu (i : Slot) (st : CompletionStatus) (l : List Byte) (s : State) : (completeOutstanding i st l s).mu = s.mu := by
  unfold completeOutstanding
  repeat' split
  all_goals simp_all
@[simp] theorem completeOutstanding_nq (i : Slot) (st : CompletionStatus) (l : List Byte) (s : State) : (completeOutstanding i st l s).nq = s.nq := by
  unfold completeOutstanding
  repeat' split
  all_goals simp_all
@[simp] theorem completeOutstanding_pending (i : Slot) (st : CompletionStatus) (l : List Byte) (s : State) : (completeOutstanding i st l s).pending = s.pending := by
  unfold completeOutstanding
  repeat' split
  all_goals simp_all

/-! ### orphan -/

@[simp] theorem orphan_pins (i : Slot) (s : State) : (orphan i s).pins = s.pins := by
  unfold orphan
  repeat' split
  all_goals simp_all
@[simp] theorem orphan_win (i : Slot) (s : State) : (orphan i s).win = s.win := by
  unfold orphan
  repeat' split
  all_goals simp_all
@[simp] theorem orphan_table (i : Slot) (s : State) : (orphan i s).table = s.table := by
  unfold orphan
  repeat' split
  all_goals simp_all
@[simp] theorem orphan_px (i : Slot) (s : State) : (orphan i s).px = s.px := by
  unfold orphan
  repeat' split
  all_goals simp_all
@[simp] theorem orphan_link (i : Slot) (s : State) : (orphan i s).link = s.link := by
  unfold orphan
  repeat' split
  all_goals simp_all
@[simp] theorem orphan_sched (i : Slot) (s : State) : (orphan i s).sched = s.sched := by
  unfold orphan
  repeat' split
  all_goals simp_all
@[simp] theorem orphan_ce (i : Slot) (s : State) : (orphan i s).ce = s.ce := by
  unfold orphan
  repeat' split
  all_goals simp_all
@[simp] theorem orphan_pending (i : Slot) (s : State) : (orphan i s).pending = s.pending := by
  unfold orphan
  repeat' split
  all_goals simp_all
@[simp] theorem orphan_entry (i : Slot) (s : State) (j : Slot) : (orphan i s).entry j = s.entry j :=
  entry_congr (orphan_table _ s) j


/-! ### freeDecided -/

@[simp] theorem freeDecided_pins (i : Slot) (s : State) : (freeDecided i s).pins = s.pins := by
  unfold freeDecided
  repeat' split
  all_goals simp_all
@[simp] theorem freeDecided_win (i : Slot) (s : State) : (freeDecided i s).win = s.win := by
  unfold freeDecided
  repeat' split
  all_goals simp_all
@[simp] theorem freeDecided_table (i : Slot) (s : State) : (freeDecided i s).table = s.table := by
  unfold freeDecided
  repeat' split
  all_goals simp_all
@[simp] theorem freeDecided_px (i : Slot) (s : State) : (freeDecided i s).px = s.px := by
  unfold freeDecided
  repeat' split
  all_goals simp_all
@[simp] theorem freeDecided_link (i : Slot) (s : State) : (freeDecided i s).link = s.link := by
  unfold freeDecided
  repeat' split
  all_goals simp_all
@[simp] theorem freeDecided_sched (i : Slot) (s : State) : (freeDecided i s).sched = s.sched := by
  unfold freeDecided
  repeat' split
  all_goals simp_all
@[simp] theorem freeDecided_ce (i : Slot) (s : State) : (freeDecided i s).ce = s.ce := by
  unfold freeDecided
  repeat' split
  all_goals simp_all
@[simp] theorem freeDecided_nq (i : Slot) (s : State) : (freeDecided i s).nq = s.nq := by
  unfold freeDecided
  repeat' split
  all_goals simp_all
@[simp] theorem freeDecided_pending (i : Slot) (s : State) : (freeDecided i s).pending = s.pending := by
  unfold freeDecided
  repeat' split
  all_goals simp_all
@[simp] theorem freeDecided_entry (i : Slot) (s : State) (j : Slot) : (freeDecided i s).entry j = s.entry j :=
  entry_congr (freeDecided_table _ s) j


/-! ### enterNegotiating -/

@[simp] theorem enterNegotiating_pins (i : Slot) (c : BitVec 4) (s : State) : (enterNegotiating i c s).pins = s.pins := by
  simp [enterNegotiating]

@[simp] theorem enterNegotiating_win (i : Slot) (c : BitVec 4) (s : State) : (enterNegotiating i c s).win = s.win := by
  simp [enterNegotiating]

@[simp] theorem enterNegotiating_px (i : Slot) (c : BitVec 4) (s : State) : (enterNegotiating i c s).px = s.px := by
  simp [enterNegotiating]

@[simp] theorem enterNegotiating_link (i : Slot) (c : BitVec 4) (s : State) : (enterNegotiating i c s).link = s.link := by
  simp [enterNegotiating]

@[simp] theorem enterNegotiating_sched (i : Slot) (c : BitVec 4) (s : State) : (enterNegotiating i c s).sched = s.sched := by
  simp [enterNegotiating]

@[simp] theorem enterNegotiating_ce (i : Slot) (c : BitVec 4) (s : State) : (enterNegotiating i c s).ce = s.ce := by
  simp [enterNegotiating]

@[simp] theorem enterNegotiating_mu (i : Slot) (c : BitVec 4) (s : State) : (enterNegotiating i c s).mu = s.mu := by
  simp [enterNegotiating]

@[simp] theorem enterNegotiating_pending (i : Slot) (c : BitVec 4) (s : State) : (enterNegotiating i c s).pending = s.pending := by
  simp [enterNegotiating]


/-! ### renegotiate -/

@[simp] theorem renegotiate_pins (i : Slot) (c : Byte) (s : State) : (renegotiate i c s).pins = s.pins := by
  simp [renegotiate]

@[simp] theorem renegotiate_win (i : Slot) (c : Byte) (s : State) : (renegotiate i c s).win = s.win := by
  simp [renegotiate]

@[simp] theorem renegotiate_px (i : Slot) (c : Byte) (s : State) : (renegotiate i c s).px = s.px := by
  simp [renegotiate]

@[simp] theorem renegotiate_link (i : Slot) (c : Byte) (s : State) : (renegotiate i c s).link = s.link := by
  simp [renegotiate]

@[simp] theorem renegotiate_sched (i : Slot) (c : Byte) (s : State) : (renegotiate i c s).sched = s.sched := by
  simp [renegotiate]

@[simp] theorem renegotiate_mu (i : Slot) (c : Byte) (s : State) : (renegotiate i c s).mu = s.mu := by
  simp [renegotiate]

@[simp] theorem renegotiate_pending (i : Slot) (c : Byte) (s : State) : (renegotiate i c s).pending = s.pending := by
  simp [renegotiate]


/-! ### postPagesDropped -/

@[simp] theorem postPagesDropped_pins (i : Slot) (s : State) : (postPagesDropped i s).pins = s.pins := by
  unfold postPagesDropped
  repeat' split
  all_goals simp_all
@[simp] theorem postPagesDropped_win (i : Slot) (s : State) : (postPagesDropped i s).win = s.win := by
  unfold postPagesDropped
  repeat' split
  all_goals simp_all
@[simp] theorem postPagesDropped_table (i : Slot) (s : State) : (postPagesDropped i s).table = s.table := by
  unfold postPagesDropped
  repeat' split
  all_goals simp_all
@[simp] theorem postPagesDropped_px (i : Slot) (s : State) : (postPagesDropped i s).px = s.px := by
  unfold postPagesDropped
  repeat' split
  all_goals simp_all
@[simp] theorem postPagesDropped_link (i : Slot) (s : State) : (postPagesDropped i s).link = s.link := by
  unfold postPagesDropped
  repeat' split
  all_goals simp_all
@[simp] theorem postPagesDropped_sched (i : Slot) (s : State) : (postPagesDropped i s).sched = s.sched := by
  unfold postPagesDropped
  repeat' split
  all_goals simp_all
@[simp] theorem postPagesDropped_ce (i : Slot) (s : State) : (postPagesDropped i s).ce = s.ce := by
  unfold postPagesDropped
  repeat' split
  all_goals simp_all
@[simp] theorem postPagesDropped_mu (i : Slot) (s : State) : (postPagesDropped i s).mu = s.mu := by
  unfold postPagesDropped
  repeat' split
  all_goals simp_all
@[simp] theorem postPagesDropped_pending (i : Slot) (s : State) : (postPagesDropped i s).pending = s.pending := by
  unfold postPagesDropped
  repeat' split
  all_goals simp_all
@[simp] theorem postPagesDropped_entry (i : Slot) (s : State) (j : Slot) : (postPagesDropped i s).entry j = s.entry j :=
  entry_congr (postPagesDropped_table _ s) j


/-! ### enterActive -/

@[simp] theorem enterActive_pins (i : Slot) (p : Profile) (s : State) : (enterActive i p s).pins = s.pins := by
  simp [enterActive]

@[simp] theorem enterActive_win (i : Slot) (p : Profile) (s : State) : (enterActive i p s).win = s.win := by
  simp [enterActive]

@[simp] theorem enterActive_px (i : Slot) (p : Profile) (s : State) : (enterActive i p s).px = s.px := by
  simp [enterActive]

@[simp] theorem enterActive_link (i : Slot) (p : Profile) (s : State) : (enterActive i p s).link = s.link := by
  simp [enterActive]

@[simp] theorem enterActive_sched (i : Slot) (p : Profile) (s : State) : (enterActive i p s).sched = s.sched := by
  simp [enterActive]

@[simp] theorem enterActive_ce (i : Slot) (p : Profile) (s : State) : (enterActive i p s).ce = s.ce := by
  simp [enterActive]

@[simp] theorem enterActive_mu (i : Slot) (p : Profile) (s : State) : (enterActive i p s).mu = s.mu := by
  simp [enterActive]

@[simp] theorem enterActive_pending (i : Slot) (p : Profile) (s : State) : (enterActive i p s).pending = s.pending := by
  simp [enterActive]


/-! ### enterFailed -/

@[simp] theorem enterFailed_pins (i : Slot) (c : FaultCode) (s : State) : (enterFailed i c s).pins = s.pins := by
  simp [enterFailed]

@[simp] theorem enterFailed_win (i : Slot) (c : FaultCode) (s : State) : (enterFailed i c s).win = s.win := by
  simp [enterFailed]

@[simp] theorem enterFailed_px (i : Slot) (c : FaultCode) (s : State) : (enterFailed i c s).px = s.px := by
  simp [enterFailed]

@[simp] theorem enterFailed_link (i : Slot) (c : FaultCode) (s : State) : (enterFailed i c s).link = s.link := by
  simp [enterFailed]

@[simp] theorem enterFailed_ce (i : Slot) (c : FaultCode) (s : State) : (enterFailed i c s).ce = s.ce := by
  simp [enterFailed]

@[simp] theorem enterFailed_pending (i : Slot) (c : FaultCode) (s : State) : (enterFailed i c s).pending = s.pending := by
  simp [enterFailed]


/-! ### enterLost -/

@[simp] theorem enterLost_pins (i : Slot) (s : State) : (enterLost i s).pins = s.pins := by
  simp [enterLost]

@[simp] theorem enterLost_win (i : Slot) (s : State) : (enterLost i s).win = s.win := by
  simp [enterLost]

@[simp] theorem enterLost_px (i : Slot) (s : State) : (enterLost i s).px = s.px := by
  simp [enterLost]

@[simp] theorem enterLost_link (i : Slot) (s : State) : (enterLost i s).link = s.link := by
  simp [enterLost]

@[simp] theorem enterLost_pending (i : Slot) (s : State) : (enterLost i s).pending = s.pending := by
  simp [enterLost]


/-! ### endCommands -/

@[simp] theorem endCommands_pins (i : Slot) (st : CompletionStatus) (s : State) : (endCommands i st s).pins = s.pins := by
  unfold endCommands
  repeat' split
  all_goals simp_all
@[simp] theorem endCommands_win (i : Slot) (st : CompletionStatus) (s : State) : (endCommands i st s).win = s.win := by
  unfold endCommands
  repeat' split
  all_goals simp_all
@[simp] theorem endCommands_px (i : Slot) (st : CompletionStatus) (s : State) : (endCommands i st s).px = s.px := by
  unfold endCommands
  repeat' split
  all_goals simp_all
@[simp] theorem endCommands_link (i : Slot) (st : CompletionStatus) (s : State) : (endCommands i st s).link = s.link := by
  unfold endCommands
  repeat' split
  all_goals simp_all
@[simp] theorem endCommands_sched (i : Slot) (st : CompletionStatus) (s : State) : (endCommands i st s).sched = s.sched := by
  unfold endCommands
  repeat' split
  all_goals simp_all
@[simp] theorem endCommands_mu (i : Slot) (st : CompletionStatus) (s : State) : (endCommands i st s).mu = s.mu := by
  unfold endCommands
  repeat' split
  all_goals simp_all
@[simp] theorem endCommands_nq (i : Slot) (st : CompletionStatus) (s : State) : (endCommands i st s).nq = s.nq := by
  unfold endCommands
  repeat' split
  all_goals simp_all
@[simp] theorem endCommands_pending (i : Slot) (st : CompletionStatus) (s : State) : (endCommands i st s).pending = s.pending := by
  unfold endCommands
  repeat' split
  all_goals simp_all

/-! ### enterVacant -/

@[simp] theorem enterVacant_pins (i : Slot) (st : CompletionStatus) (s : State) : (enterVacant i st s).pins = s.pins := by
  simp [enterVacant]

@[simp] theorem enterVacant_win (i : Slot) (st : CompletionStatus) (s : State) : (enterVacant i st s).win = s.win := by
  simp [enterVacant]

@[simp] theorem enterVacant_px (i : Slot) (st : CompletionStatus) (s : State) : (enterVacant i st s).px = s.px := by
  simp [enterVacant]

@[simp] theorem enterVacant_link (i : Slot) (st : CompletionStatus) (s : State) : (enterVacant i st s).link = s.link := by
  simp [enterVacant]

@[simp] theorem enterVacant_pending (i : Slot) (st : CompletionStatus) (s : State) : (enterVacant i st s).pending = s.pending := by
  simp [enterVacant]


/-! ### restartEntry -/

@[simp] theorem restartEntry_pins (i : Slot) (s : State) : (restartEntry s i).pins = s.pins := by
  unfold restartEntry
  repeat' split
  all_goals simp_all
@[simp] theorem restartEntry_win (i : Slot) (s : State) : (restartEntry s i).win = s.win := by
  unfold restartEntry
  repeat' split
  all_goals simp_all
@[simp] theorem restartEntry_px (i : Slot) (s : State) : (restartEntry s i).px = s.px := by
  unfold restartEntry
  repeat' split
  all_goals simp_all
@[simp] theorem restartEntry_link (i : Slot) (s : State) : (restartEntry s i).link = s.link := by
  unfold restartEntry
  repeat' split
  all_goals simp_all
@[simp] theorem restartEntry_pending (i : Slot) (s : State) : (restartEntry s i).pending = s.pending := by
  unfold restartEntry
  repeat' split
  all_goals simp_all

/-! ### restartFold -/

@[simp] theorem restartFold_pins (l : List Slot) (s : State) : (l.foldl restartEntry s).pins = s.pins := by
  induction l generalizing s with
  | nil => rfl
  | cons x xs ih => simp [ih]
@[simp] theorem restartFold_win (l : List Slot) (s : State) : (l.foldl restartEntry s).win = s.win := by
  induction l generalizing s with
  | nil => rfl
  | cons x xs ih => simp [ih]
@[simp] theorem restartFold_px (l : List Slot) (s : State) : (l.foldl restartEntry s).px = s.px := by
  induction l generalizing s with
  | nil => rfl
  | cons x xs ih => simp [ih]
@[simp] theorem restartFold_link (l : List Slot) (s : State) : (l.foldl restartEntry s).link = s.link := by
  induction l generalizing s with
  | nil => rfl
  | cons x xs ih => simp [ih]
@[simp] theorem restartFold_pending (l : List Slot) (s : State) : (l.foldl restartEntry s).pending = s.pending := by
  induction l generalizing s with
  | nil => rfl
  | cons x xs ih => simp [ih]

/-! ### restartTable -/

@[simp] theorem restartTable_pins (s : State) : (restartTable s).pins = s.pins := by
  simp [restartTable]

@[simp] theorem restartTable_win (s : State) : (restartTable s).win = s.win := by
  simp [restartTable]

@[simp] theorem restartTable_px (s : State) : (restartTable s).px = s.px := by
  simp [restartTable]

@[simp] theorem restartTable_link (s : State) : (restartTable s).link = s.link := by
  simp [restartTable]

@[simp] theorem restartTable_pending (s : State) : (restartTable s).pending = s.pending := by
  simp [restartTable]


/-! ### beginRestart -/

@[simp] theorem beginRestart_pins (s : State) : (beginRestart s).pins = s.pins := by
  simp [beginRestart]

@[simp] theorem beginRestart_win (s : State) : (beginRestart s).win = s.win := by
  simp [beginRestart]

@[simp] theorem beginRestart_px (s : State) : (beginRestart s).px = s.px := by
  simp [beginRestart]

@[simp] theorem beginRestart_pending (s : State) : (beginRestart s).pending = s.pending := by
  simp [beginRestart]


/-! ### afterWork -/

@[simp] theorem afterWork_pins (s : State) : (afterWork s).pins = s.pins := by
  unfold afterWork
  repeat' split
  all_goals simp_all
@[simp] theorem afterWork_win (s : State) : (afterWork s).win = s.win := by
  unfold afterWork
  repeat' split
  all_goals simp_all
@[simp] theorem afterWork_px (s : State) : (afterWork s).px = s.px := by
  unfold afterWork
  repeat' split
  all_goals simp_all
@[simp] theorem afterWork_pending (s : State) : (afterWork s).pending = s.pending := by
  unfold afterWork
  repeat' split
  all_goals simp_all

/-! ### takeFault -/

@[simp] theorem takeFault_pins (s : State) : (takeFault s).pins = s.pins := by
  simp [takeFault]

@[simp] theorem takeFault_win (s : State) : (takeFault s).win = s.win := by
  simp [takeFault]

@[simp] theorem takeFault_table (s : State) : (takeFault s).table = s.table := by
  simp [takeFault]

@[simp] theorem takeFault_px (s : State) : (takeFault s).px = s.px := by
  simp [takeFault]

@[simp] theorem takeFault_sched (s : State) : (takeFault s).sched = s.sched := by
  simp [takeFault]

@[simp] theorem takeFault_ce (s : State) : (takeFault s).ce = s.ce := by
  simp [takeFault]

@[simp] theorem takeFault_mu (s : State) : (takeFault s).mu = s.mu := by
  simp [takeFault]

@[simp] theorem takeFault_pending (s : State) : (takeFault s).pending = s.pending := by
  simp [takeFault]

@[simp] theorem takeFault_entry (s : State) (j : Slot) : (takeFault s).entry j = s.entry j :=
  entry_congr (takeFault_table s) j


/-! ### countMiss -/

@[simp] theorem countMiss_pins (i : Slot) (s : State) : (countMiss i s).pins = s.pins := by
  unfold countMiss
  repeat' split
  all_goals simp_all
@[simp] theorem countMiss_win (i : Slot) (s : State) : (countMiss i s).win = s.win := by
  unfold countMiss
  repeat' split
  all_goals simp_all
@[simp] theorem countMiss_px (i : Slot) (s : State) : (countMiss i s).px = s.px := by
  unfold countMiss
  repeat' split
  all_goals simp_all
@[simp] theorem countMiss_link (i : Slot) (s : State) : (countMiss i s).link = s.link := by
  unfold countMiss
  repeat' split
  all_goals simp_all
@[simp] theorem countMiss_pending (i : Slot) (s : State) : (countMiss i s).pending = s.pending := by
  unfold countMiss
  repeat' split
  all_goals simp_all

/-! ### clearMissesIfActive -/

@[simp] theorem clearMissesIfActive_pins (i : Slot) (s : State) : (clearMissesIfActive i s).pins = s.pins := by
  unfold clearMissesIfActive
  repeat' split
  all_goals simp_all
@[simp] theorem clearMissesIfActive_win (i : Slot) (s : State) : (clearMissesIfActive i s).win = s.win := by
  unfold clearMissesIfActive
  repeat' split
  all_goals simp_all
@[simp] theorem clearMissesIfActive_px (i : Slot) (s : State) : (clearMissesIfActive i s).px = s.px := by
  unfold clearMissesIfActive
  repeat' split
  all_goals simp_all
@[simp] theorem clearMissesIfActive_link (i : Slot) (s : State) : (clearMissesIfActive i s).link = s.link := by
  unfold clearMissesIfActive
  repeat' split
  all_goals simp_all
@[simp] theorem clearMissesIfActive_sched (i : Slot) (s : State) : (clearMissesIfActive i s).sched = s.sched := by
  unfold clearMissesIfActive
  repeat' split
  all_goals simp_all
@[simp] theorem clearMissesIfActive_ce (i : Slot) (s : State) : (clearMissesIfActive i s).ce = s.ce := by
  unfold clearMissesIfActive
  repeat' split
  all_goals simp_all
@[simp] theorem clearMissesIfActive_mu (i : Slot) (s : State) : (clearMissesIfActive i s).mu = s.mu := by
  unfold clearMissesIfActive
  repeat' split
  all_goals simp_all
@[simp] theorem clearMissesIfActive_nq (i : Slot) (s : State) : (clearMissesIfActive i s).nq = s.nq := by
  unfold clearMissesIfActive
  repeat' split
  all_goals simp_all
@[simp] theorem clearMissesIfActive_pending (i : Slot) (s : State) : (clearMissesIfActive i s).pending = s.pending := by
  unfold clearMissesIfActive
  repeat' split
  all_goals simp_all

/-! ### countMissIfActive -/

@[simp] theorem countMissIfActive_pins (i : Slot) (s : State) : (countMissIfActive i s).pins = s.pins := by
  unfold countMissIfActive
  repeat' split
  all_goals simp_all
@[simp] theorem countMissIfActive_win (i : Slot) (s : State) : (countMissIfActive i s).win = s.win := by
  unfold countMissIfActive
  repeat' split
  all_goals simp_all
@[simp] theorem countMissIfActive_px (i : Slot) (s : State) : (countMissIfActive i s).px = s.px := by
  unfold countMissIfActive
  repeat' split
  all_goals simp_all
@[simp] theorem countMissIfActive_link (i : Slot) (s : State) : (countMissIfActive i s).link = s.link := by
  unfold countMissIfActive
  repeat' split
  all_goals simp_all
@[simp] theorem countMissIfActive_pending (i : Slot) (s : State) : (countMissIfActive i s).pending = s.pending := by
  unfold countMissIfActive
  repeat' split
  all_goals simp_all

/-! ### postAlarm -/

@[simp] theorem postAlarm_pins (i : Slot) (a b : Byte) (s : State) : (postAlarm i a b s).pins = s.pins := by
  unfold postAlarm
  repeat' split
  all_goals simp_all
@[simp] theorem postAlarm_win (i : Slot) (a b : Byte) (s : State) : (postAlarm i a b s).win = s.win := by
  unfold postAlarm
  repeat' split
  all_goals simp_all
@[simp] theorem postAlarm_table (i : Slot) (a b : Byte) (s : State) : (postAlarm i a b s).table = s.table := by
  unfold postAlarm
  repeat' split
  all_goals simp_all
@[simp] theorem postAlarm_px (i : Slot) (a b : Byte) (s : State) : (postAlarm i a b s).px = s.px := by
  unfold postAlarm
  repeat' split
  all_goals simp_all
@[simp] theorem postAlarm_link (i : Slot) (a b : Byte) (s : State) : (postAlarm i a b s).link = s.link := by
  unfold postAlarm
  repeat' split
  all_goals simp_all
@[simp] theorem postAlarm_sched (i : Slot) (a b : Byte) (s : State) : (postAlarm i a b s).sched = s.sched := by
  unfold postAlarm
  repeat' split
  all_goals simp_all
@[simp] theorem postAlarm_ce (i : Slot) (a b : Byte) (s : State) : (postAlarm i a b s).ce = s.ce := by
  unfold postAlarm
  repeat' split
  all_goals simp_all
@[simp] theorem postAlarm_mu (i : Slot) (a b : Byte) (s : State) : (postAlarm i a b s).mu = s.mu := by
  unfold postAlarm
  repeat' split
  all_goals simp_all
@[simp] theorem postAlarm_pending (i : Slot) (a b : Byte) (s : State) : (postAlarm i a b s).pending = s.pending := by
  unfold postAlarm
  repeat' split
  all_goals simp_all
@[simp] theorem postAlarm_entry (i : Slot) (a b : Byte) (s : State) (j : Slot) : (postAlarm i a b s).entry j = s.entry j :=
  entry_congr (postAlarm_table _ _ _ s) j


/-! ### applyStatus -/

@[simp] theorem applyStatus_pins (i : Slot) (a : Byte) (r : StatusRecord) (s : State) : (applyStatus i a r s).pins = s.pins := by
  simp [applyStatus]

@[simp] theorem applyStatus_win (i : Slot) (a : Byte) (r : StatusRecord) (s : State) : (applyStatus i a r s).win = s.win := by
  simp [applyStatus]

@[simp] theorem applyStatus_px (i : Slot) (a : Byte) (r : StatusRecord) (s : State) : (applyStatus i a r s).px = s.px := by
  simp [applyStatus]

@[simp] theorem applyStatus_link (i : Slot) (a : Byte) (r : StatusRecord) (s : State) : (applyStatus i a r s).link = s.link := by
  simp [applyStatus]

@[simp] theorem applyStatus_sched (i : Slot) (a : Byte) (r : StatusRecord) (s : State) : (applyStatus i a r s).sched = s.sched := by
  simp [applyStatus]

@[simp] theorem applyStatus_ce (i : Slot) (a : Byte) (r : StatusRecord) (s : State) : (applyStatus i a r s).ce = s.ce := by
  simp [applyStatus]

@[simp] theorem applyStatus_mu (i : Slot) (a : Byte) (r : StatusRecord) (s : State) : (applyStatus i a r s).mu = s.mu := by
  simp [applyStatus]

@[simp] theorem applyStatus_pending (i : Slot) (a : Byte) (r : StatusRecord) (s : State) : (applyStatus i a r s).pending = s.pending := by
  simp [applyStatus]


/-! ### deliverPoll -/

@[simp] theorem deliverPoll_pins (i : Slot) (o : ExchangeOutcome) (s : State) : (deliverPoll i o s).pins = s.pins := by
  unfold deliverPoll
  repeat' split
  all_goals simp_all
@[simp] theorem deliverPoll_win (i : Slot) (o : ExchangeOutcome) (s : State) : (deliverPoll i o s).win = s.win := by
  unfold deliverPoll
  repeat' split
  all_goals simp_all
@[simp] theorem deliverPoll_px (i : Slot) (o : ExchangeOutcome) (s : State) : (deliverPoll i o s).px = s.px := by
  unfold deliverPoll
  repeat' split
  all_goals simp_all
@[simp] theorem deliverPoll_link (i : Slot) (o : ExchangeOutcome) (s : State) : (deliverPoll i o s).link = s.link := by
  unfold deliverPoll
  repeat' split
  all_goals simp_all
@[simp] theorem deliverPoll_pending (i : Slot) (o : ExchangeOutcome) (s : State) : (deliverPoll i o s).pending = s.pending := by
  unfold deliverPoll
  repeat' split
  all_goals simp_all

/-! ### endWorking -/

@[simp] theorem endWorking_pins (i : Slot) (f : InFlight) (q : Bool) (s : State) : (endWorking i f q s).pins = s.pins := by
  unfold endWorking
  repeat' split
  all_goals simp_all
@[simp] theorem endWorking_win (i : Slot) (f : InFlight) (q : Bool) (s : State) : (endWorking i f q s).win = s.win := by
  unfold endWorking
  repeat' split
  all_goals simp_all
@[simp] theorem endWorking_px (i : Slot) (f : InFlight) (q : Bool) (s : State) : (endWorking i f q s).px = s.px := by
  unfold endWorking
  repeat' split
  all_goals simp_all
@[simp] theorem endWorking_link (i : Slot) (f : InFlight) (q : Bool) (s : State) : (endWorking i f q s).link = s.link := by
  unfold endWorking
  repeat' split
  all_goals simp_all
@[simp] theorem endWorking_sched (i : Slot) (f : InFlight) (q : Bool) (s : State) : (endWorking i f q s).sched = s.sched := by
  unfold endWorking
  repeat' split
  all_goals simp_all
@[simp] theorem endWorking_mu (i : Slot) (f : InFlight) (q : Bool) (s : State) : (endWorking i f q s).mu = s.mu := by
  unfold endWorking
  repeat' split
  all_goals simp_all
@[simp] theorem endWorking_nq (i : Slot) (f : InFlight) (q : Bool) (s : State) : (endWorking i f q s).nq = s.nq := by
  unfold endWorking
  repeat' split
  all_goals simp_all
@[simp] theorem endWorking_pending (i : Slot) (f : InFlight) (q : Bool) (s : State) : (endWorking i f q s).pending = s.pending := by
  unfold endWorking
  repeat' split
  all_goals simp_all

/-! ### deliverCommand -/

@[simp] theorem deliverCommand_pins (i : Slot) (q : Bool) (o : ExchangeOutcome) (s : State) : (deliverCommand i q o s).pins = s.pins := by
  unfold deliverCommand
  repeat' split
  all_goals simp_all
@[simp] theorem deliverCommand_win (i : Slot) (q : Bool) (o : ExchangeOutcome) (s : State) : (deliverCommand i q o s).win = s.win := by
  unfold deliverCommand
  repeat' split
  all_goals simp_all
@[simp] theorem deliverCommand_px (i : Slot) (q : Bool) (o : ExchangeOutcome) (s : State) : (deliverCommand i q o s).px = s.px := by
  unfold deliverCommand
  repeat' split
  all_goals simp_all
@[simp] theorem deliverCommand_link (i : Slot) (q : Bool) (o : ExchangeOutcome) (s : State) : (deliverCommand i q o s).link = s.link := by
  unfold deliverCommand
  repeat' split
  all_goals simp_all
@[simp] theorem deliverCommand_pending (i : Slot) (q : Bool) (o : ExchangeOutcome) (s : State) : (deliverCommand i q o s).pending = s.pending := by
  unfold deliverCommand
  repeat' split
  all_goals simp_all

/-! ### oweAccept -/

@[simp] theorem oweAccept_pins (i : Slot) (n : BitVec 4) (b : Bool) (s : State) : (oweAccept i n b s).pins = s.pins := by
  simp [oweAccept]

@[simp] theorem oweAccept_win (i : Slot) (n : BitVec 4) (b : Bool) (s : State) : (oweAccept i n b s).win = s.win := by
  simp [oweAccept]

@[simp] theorem oweAccept_px (i : Slot) (n : BitVec 4) (b : Bool) (s : State) : (oweAccept i n b s).px = s.px := by
  simp [oweAccept]

@[simp] theorem oweAccept_link (i : Slot) (n : BitVec 4) (b : Bool) (s : State) : (oweAccept i n b s).link = s.link := by
  simp [oweAccept]

@[simp] theorem oweAccept_ce (i : Slot) (n : BitVec 4) (b : Bool) (s : State) : (oweAccept i n b s).ce = s.ce := by
  simp [oweAccept]

@[simp] theorem oweAccept_mu (i : Slot) (n : BitVec 4) (b : Bool) (s : State) : (oweAccept i n b s).mu = s.mu := by
  simp [oweAccept]

@[simp] theorem oweAccept_nq (i : Slot) (n : BitVec 4) (b : Bool) (s : State) : (oweAccept i n b s).nq = s.nq := by
  simp [oweAccept]

@[simp] theorem oweAccept_pending (i : Slot) (n : BitVec 4) (b : Bool) (s : State) : (oweAccept i n b s).pending = s.pending := by
  simp [oweAccept]


/-! ### oweReject -/

@[simp] theorem oweReject_pins (i : Slot) (n : BitVec 4) (r : Byte) (s : State) : (oweReject i n r s).pins = s.pins := by
  simp [oweReject]

@[simp] theorem oweReject_win (i : Slot) (n : BitVec 4) (r : Byte) (s : State) : (oweReject i n r s).win = s.win := by
  simp [oweReject]

@[simp] theorem oweReject_px (i : Slot) (n : BitVec 4) (r : Byte) (s : State) : (oweReject i n r s).px = s.px := by
  simp [oweReject]

@[simp] theorem oweReject_link (i : Slot) (n : BitVec 4) (r : Byte) (s : State) : (oweReject i n r s).link = s.link := by
  simp [oweReject]

@[simp] theorem oweReject_ce (i : Slot) (n : BitVec 4) (r : Byte) (s : State) : (oweReject i n r s).ce = s.ce := by
  simp [oweReject]

@[simp] theorem oweReject_mu (i : Slot) (n : BitVec 4) (r : Byte) (s : State) : (oweReject i n r s).mu = s.mu := by
  simp [oweReject]

@[simp] theorem oweReject_nq (i : Slot) (n : BitVec 4) (r : Byte) (s : State) : (oweReject i n r s).nq = s.nq := by
  simp [oweReject]

@[simp] theorem oweReject_pending (i : Slot) (n : BitVec 4) (r : Byte) (s : State) : (oweReject i n r s).pending = s.pending := by
  simp [oweReject]


/-! ### rejectMalformed -/

@[simp] theorem rejectMalformed_pins (i : Slot) (c : Byte) (n : BitVec 4) (s : State) : (rejectMalformed i c n s).pins = s.pins := by
  simp [rejectMalformed]

@[simp] theorem rejectMalformed_win (i : Slot) (c : Byte) (n : BitVec 4) (s : State) : (rejectMalformed i c n s).win = s.win := by
  simp [rejectMalformed]

@[simp] theorem rejectMalformed_px (i : Slot) (c : Byte) (n : BitVec 4) (s : State) : (rejectMalformed i c n s).px = s.px := by
  simp [rejectMalformed]

@[simp] theorem rejectMalformed_link (i : Slot) (c : Byte) (n : BitVec 4) (s : State) : (rejectMalformed i c n s).link = s.link := by
  simp [rejectMalformed]

@[simp] theorem rejectMalformed_ce (i : Slot) (c : Byte) (n : BitVec 4) (s : State) : (rejectMalformed i c n s).ce = s.ce := by
  simp [rejectMalformed]

@[simp] theorem rejectMalformed_mu (i : Slot) (c : Byte) (n : BitVec 4) (s : State) : (rejectMalformed i c n s).mu = s.mu := by
  simp [rejectMalformed]

@[simp] theorem rejectMalformed_pending (i : Slot) (c : Byte) (n : BitVec 4) (s : State) : (rejectMalformed i c n s).pending = s.pending := by
  simp [rejectMalformed]


/-! ### judgeHold -/

@[simp] theorem judgeHold_pins (i : Slot) (n : BitVec 4) (l : List Byte) (s : State) : (judgeHold i n l s).pins = s.pins := by
  unfold judgeHold
  repeat' split
  all_goals simp_all
@[simp] theorem judgeHold_win (i : Slot) (n : BitVec 4) (l : List Byte) (s : State) : (judgeHold i n l s).win = s.win := by
  unfold judgeHold
  repeat' split
  all_goals simp_all
@[simp] theorem judgeHold_px (i : Slot) (n : BitVec 4) (l : List Byte) (s : State) : (judgeHold i n l s).px = s.px := by
  unfold judgeHold
  repeat' split
  all_goals simp_all
@[simp] theorem judgeHold_link (i : Slot) (n : BitVec 4) (l : List Byte) (s : State) : (judgeHold i n l s).link = s.link := by
  unfold judgeHold
  repeat' split
  all_goals simp_all
@[simp] theorem judgeHold_ce (i : Slot) (n : BitVec 4) (l : List Byte) (s : State) : (judgeHold i n l s).ce = s.ce := by
  unfold judgeHold
  repeat' split
  all_goals simp_all
@[simp] theorem judgeHold_mu (i : Slot) (n : BitVec 4) (l : List Byte) (s : State) : (judgeHold i n l s).mu = s.mu := by
  unfold judgeHold
  repeat' split
  all_goals simp_all
@[simp] theorem judgeHold_pending (i : Slot) (n : BitVec 4) (l : List Byte) (s : State) : (judgeHold i n l s).pending = s.pending := by
  unfold judgeHold
  repeat' split
  all_goals simp_all

/-! ### judgeLateResult -/

@[simp] theorem judgeLateResult_pins (i : Slot) (n : BitVec 4) (l : List Byte) (b : Bool) (s : State) : (judgeLateResult i n l b s).pins = s.pins := by
  unfold judgeLateResult
  repeat' split
  all_goals simp_all
@[simp] theorem judgeLateResult_win (i : Slot) (n : BitVec 4) (l : List Byte) (b : Bool) (s : State) : (judgeLateResult i n l b s).win = s.win := by
  unfold judgeLateResult
  repeat' split
  all_goals simp_all
@[simp] theorem judgeLateResult_px (i : Slot) (n : BitVec 4) (l : List Byte) (b : Bool) (s : State) : (judgeLateResult i n l b s).px = s.px := by
  unfold judgeLateResult
  repeat' split
  all_goals simp_all
@[simp] theorem judgeLateResult_link (i : Slot) (n : BitVec 4) (l : List Byte) (b : Bool) (s : State) : (judgeLateResult i n l b s).link = s.link := by
  unfold judgeLateResult
  repeat' split
  all_goals simp_all
@[simp] theorem judgeLateResult_mu (i : Slot) (n : BitVec 4) (l : List Byte) (b : Bool) (s : State) : (judgeLateResult i n l b s).mu = s.mu := by
  unfold judgeLateResult
  repeat' split
  all_goals simp_all
@[simp] theorem judgeLateResult_pending (i : Slot) (n : BitVec 4) (l : List Byte) (b : Bool) (s : State) : (judgeLateResult i n l b s).pending = s.pending := by
  unfold judgeLateResult
  repeat' split
  all_goals simp_all

/-! ### deferMessage -/

@[simp] theorem deferMessage_pins (i : Slot) (c : Byte) (n : BitVec 4) (l : List Byte) (s : State) : (deferMessage i c n l s).pins = s.pins := by
  unfold deferMessage
  repeat' split
  all_goals simp_all
@[simp] theorem deferMessage_win (i : Slot) (c : Byte) (n : BitVec 4) (l : List Byte) (s : State) : (deferMessage i c n l s).win = s.win := by
  unfold deferMessage
  repeat' split
  all_goals simp_all
@[simp] theorem deferMessage_table (i : Slot) (c : Byte) (n : BitVec 4) (l : List Byte) (s : State) : (deferMessage i c n l s).table = s.table := by
  unfold deferMessage
  repeat' split
  all_goals simp_all
@[simp] theorem deferMessage_px (i : Slot) (c : Byte) (n : BitVec 4) (l : List Byte) (s : State) : (deferMessage i c n l s).px = s.px := by
  unfold deferMessage
  repeat' split
  all_goals simp_all
@[simp] theorem deferMessage_link (i : Slot) (c : Byte) (n : BitVec 4) (l : List Byte) (s : State) : (deferMessage i c n l s).link = s.link := by
  unfold deferMessage
  repeat' split
  all_goals simp_all
@[simp] theorem deferMessage_sched (i : Slot) (c : Byte) (n : BitVec 4) (l : List Byte) (s : State) : (deferMessage i c n l s).sched = s.sched := by
  unfold deferMessage
  repeat' split
  all_goals simp_all
@[simp] theorem deferMessage_ce (i : Slot) (c : Byte) (n : BitVec 4) (l : List Byte) (s : State) : (deferMessage i c n l s).ce = s.ce := by
  unfold deferMessage
  repeat' split
  all_goals simp_all
@[simp] theorem deferMessage_nq (i : Slot) (c : Byte) (n : BitVec 4) (l : List Byte) (s : State) : (deferMessage i c n l s).nq = s.nq := by
  unfold deferMessage
  repeat' split
  all_goals simp_all
@[simp] theorem deferMessage_pending (i : Slot) (c : Byte) (n : BitVec 4) (l : List Byte) (s : State) : (deferMessage i c n l s).pending = s.pending := by
  unfold deferMessage
  repeat' split
  all_goals simp_all
@[simp] theorem deferMessage_entry (i : Slot) (c : Byte) (n : BitVec 4) (l : List Byte) (s : State) (j : Slot) : (deferMessage i c n l s).entry j = s.entry j :=
  entry_congr (deferMessage_table _ _ _ _ s) j


/-! ### judgeClass -/

@[simp] theorem judgeClass_pins (i : Slot) (c : Byte) (n : BitVec 4) (l : List Byte) (b : Bool) (s : State) : (judgeClass i c n l b s).pins = s.pins := by
  unfold judgeClass
  repeat' split
  all_goals simp_all
@[simp] theorem judgeClass_win (i : Slot) (c : Byte) (n : BitVec 4) (l : List Byte) (b : Bool) (s : State) : (judgeClass i c n l b s).win = s.win := by
  unfold judgeClass
  repeat' split
  all_goals simp_all
@[simp] theorem judgeClass_px (i : Slot) (c : Byte) (n : BitVec 4) (l : List Byte) (b : Bool) (s : State) : (judgeClass i c n l b s).px = s.px := by
  unfold judgeClass
  repeat' split
  all_goals simp_all
@[simp] theorem judgeClass_link (i : Slot) (c : Byte) (n : BitVec 4) (l : List Byte) (b : Bool) (s : State) : (judgeClass i c n l b s).link = s.link := by
  unfold judgeClass
  repeat' split
  all_goals simp_all
@[simp] theorem judgeClass_pending (i : Slot) (c : Byte) (n : BitVec 4) (l : List Byte) (b : Bool) (s : State) : (judgeClass i c n l b s).pending = s.pending := by
  unfold judgeClass
  repeat' split
  all_goals simp_all

/-! ### postGap -/

@[simp] theorem postGap_pins (i : Slot) (n : BitVec 4) (s : State) : (postGap i n s).pins = s.pins := by
  unfold postGap
  repeat' split
  all_goals simp_all
@[simp] theorem postGap_win (i : Slot) (n : BitVec 4) (s : State) : (postGap i n s).win = s.win := by
  unfold postGap
  repeat' split
  all_goals simp_all
@[simp] theorem postGap_table (i : Slot) (n : BitVec 4) (s : State) : (postGap i n s).table = s.table := by
  unfold postGap
  repeat' split
  all_goals simp_all
@[simp] theorem postGap_px (i : Slot) (n : BitVec 4) (s : State) : (postGap i n s).px = s.px := by
  unfold postGap
  repeat' split
  all_goals simp_all
@[simp] theorem postGap_link (i : Slot) (n : BitVec 4) (s : State) : (postGap i n s).link = s.link := by
  unfold postGap
  repeat' split
  all_goals simp_all
@[simp] theorem postGap_sched (i : Slot) (n : BitVec 4) (s : State) : (postGap i n s).sched = s.sched := by
  unfold postGap
  repeat' split
  all_goals simp_all
@[simp] theorem postGap_ce (i : Slot) (n : BitVec 4) (s : State) : (postGap i n s).ce = s.ce := by
  unfold postGap
  repeat' split
  all_goals simp_all
@[simp] theorem postGap_mu (i : Slot) (n : BitVec 4) (s : State) : (postGap i n s).mu = s.mu := by
  unfold postGap
  repeat' split
  all_goals simp_all
@[simp] theorem postGap_pending (i : Slot) (n : BitVec 4) (s : State) : (postGap i n s).pending = s.pending := by
  unfold postGap
  repeat' split
  all_goals simp_all
@[simp] theorem postGap_entry (i : Slot) (n : BitVec 4) (s : State) (j : Slot) : (postGap i n s).entry j = s.entry j :=
  entry_congr (postGap_table _ _ s) j


/-! ### judgeMessage -/

@[simp] theorem judgeMessage_pins (i : Slot) (c : Byte) (n : BitVec 4) (l : List Byte) (b : Bool) (s : State) : (judgeMessage i c n l b s).pins = s.pins := by
  unfold judgeMessage
  repeat' split
  all_goals simp_all
@[simp] theorem judgeMessage_win (i : Slot) (c : Byte) (n : BitVec 4) (l : List Byte) (b : Bool) (s : State) : (judgeMessage i c n l b s).win = s.win := by
  unfold judgeMessage
  repeat' split
  all_goals simp_all
@[simp] theorem judgeMessage_px (i : Slot) (c : Byte) (n : BitVec 4) (l : List Byte) (b : Bool) (s : State) : (judgeMessage i c n l b s).px = s.px := by
  unfold judgeMessage
  repeat' split
  all_goals simp_all
@[simp] theorem judgeMessage_link (i : Slot) (c : Byte) (n : BitVec 4) (l : List Byte) (b : Bool) (s : State) : (judgeMessage i c n l b s).link = s.link := by
  unfold judgeMessage
  repeat' split
  all_goals simp_all
@[simp] theorem judgeMessage_pending (i : Slot) (c : Byte) (n : BitVec 4) (l : List Byte) (b : Bool) (s : State) : (judgeMessage i c n l b s).pending = s.pending := by
  unfold judgeMessage
  repeat' split
  all_goals simp_all

/-! ### deliverFetch -/

@[simp] theorem deliverFetch_pins (i : Slot) (o : ExchangeOutcome) (s : State) : (deliverFetch i o s).pins = s.pins := by
  unfold deliverFetch
  repeat' split
  all_goals simp_all
@[simp] theorem deliverFetch_win (i : Slot) (o : ExchangeOutcome) (s : State) : (deliverFetch i o s).win = s.win := by
  unfold deliverFetch
  repeat' split
  all_goals simp_all
@[simp] theorem deliverFetch_px (i : Slot) (o : ExchangeOutcome) (s : State) : (deliverFetch i o s).px = s.px := by
  unfold deliverFetch
  repeat' split
  all_goals simp_all
@[simp] theorem deliverFetch_link (i : Slot) (o : ExchangeOutcome) (s : State) : (deliverFetch i o s).link = s.link := by
  unfold deliverFetch
  repeat' split
  all_goals simp_all
@[simp] theorem deliverFetch_pending (i : Slot) (o : ExchangeOutcome) (s : State) : (deliverFetch i o s).pending = s.pending := by
  unfold deliverFetch
  repeat' split
  all_goals simp_all

/-! ### verdictCarried -/

@[simp] theorem verdictCarried_pins (i : Slot) (s : State) : (verdictCarried i s).pins = s.pins := by
  simp [verdictCarried]

@[simp] theorem verdictCarried_win (i : Slot) (s : State) : (verdictCarried i s).win = s.win := by
  simp [verdictCarried]

@[simp] theorem verdictCarried_px (i : Slot) (s : State) : (verdictCarried i s).px = s.px := by
  simp [verdictCarried]

@[simp] theorem verdictCarried_link (i : Slot) (s : State) : (verdictCarried i s).link = s.link := by
  simp [verdictCarried]

@[simp] theorem verdictCarried_ce (i : Slot) (s : State) : (verdictCarried i s).ce = s.ce := by
  simp [verdictCarried]

@[simp] theorem verdictCarried_nq (i : Slot) (s : State) : (verdictCarried i s).nq = s.nq := by
  simp [verdictCarried]

@[simp] theorem verdictCarried_pending (i : Slot) (s : State) : (verdictCarried i s).pending = s.pending := by
  simp [verdictCarried]


/-! ### deliverVerdict -/

@[simp] theorem deliverVerdict_pins (i : Slot) (o : ExchangeOutcome) (s : State) : (deliverVerdict i o s).pins = s.pins := by
  unfold deliverVerdict
  repeat' split
  all_goals simp_all
@[simp] theorem deliverVerdict_win (i : Slot) (o : ExchangeOutcome) (s : State) : (deliverVerdict i o s).win = s.win := by
  unfold deliverVerdict
  repeat' split
  all_goals simp_all
@[simp] theorem deliverVerdict_px (i : Slot) (o : ExchangeOutcome) (s : State) : (deliverVerdict i o s).px = s.px := by
  unfold deliverVerdict
  repeat' split
  all_goals simp_all
@[simp] theorem deliverVerdict_link (i : Slot) (o : ExchangeOutcome) (s : State) : (deliverVerdict i o s).link = s.link := by
  unfold deliverVerdict
  repeat' split
  all_goals simp_all
@[simp] theorem deliverVerdict_pending (i : Slot) (o : ExchangeOutcome) (s : State) : (deliverVerdict i o s).pending = s.pending := by
  unfold deliverVerdict
  repeat' split
  all_goals simp_all

/-! ### timeOut -/

@[simp] theorem timeOut_pins (d : Deferred) (s : State) : (timeOut s d).pins = s.pins := by
  simp [timeOut]

@[simp] theorem timeOut_win (d : Deferred) (s : State) : (timeOut s d).win = s.win := by
  simp [timeOut]

@[simp] theorem timeOut_px (d : Deferred) (s : State) : (timeOut s d).px = s.px := by
  simp [timeOut]

@[simp] theorem timeOut_link (d : Deferred) (s : State) : (timeOut s d).link = s.link := by
  simp [timeOut]

@[simp] theorem timeOut_ce (d : Deferred) (s : State) : (timeOut s d).ce = s.ce := by
  simp [timeOut]

@[simp] theorem timeOut_pending (d : Deferred) (s : State) : (timeOut s d).pending = s.pending := by
  simp [timeOut]


/-! ### timeOutFold -/

@[simp] theorem timeOutFold_pins (l : List Deferred) (s : State) : (l.foldl timeOut s).pins = s.pins := by
  induction l generalizing s with
  | nil => rfl
  | cons x xs ih => simp [ih]
@[simp] theorem timeOutFold_win (l : List Deferred) (s : State) : (l.foldl timeOut s).win = s.win := by
  induction l generalizing s with
  | nil => rfl
  | cons x xs ih => simp [ih]
@[simp] theorem timeOutFold_px (l : List Deferred) (s : State) : (l.foldl timeOut s).px = s.px := by
  induction l generalizing s with
  | nil => rfl
  | cons x xs ih => simp [ih]
@[simp] theorem timeOutFold_link (l : List Deferred) (s : State) : (l.foldl timeOut s).link = s.link := by
  induction l generalizing s with
  | nil => rfl
  | cons x xs ih => simp [ih]
@[simp] theorem timeOutFold_ce (l : List Deferred) (s : State) : (l.foldl timeOut s).ce = s.ce := by
  induction l generalizing s with
  | nil => rfl
  | cons x xs ih => simp [ih]
@[simp] theorem timeOutFold_pending (l : List Deferred) (s : State) : (l.foldl timeOut s).pending = s.pending := by
  induction l generalizing s with
  | nil => rfl
  | cons x xs ih => simp [ih]

/-! ### timeOutAll -/

@[simp] theorem timeOutAll_pins (s : State) : (timeOutAll s).pins = s.pins := by
  simp [timeOutAll]

@[simp] theorem timeOutAll_win (s : State) : (timeOutAll s).win = s.win := by
  simp [timeOutAll]

@[simp] theorem timeOutAll_px (s : State) : (timeOutAll s).px = s.px := by
  simp [timeOutAll]

@[simp] theorem timeOutAll_link (s : State) : (timeOutAll s).link = s.link := by
  simp [timeOutAll]

@[simp] theorem timeOutAll_ce (s : State) : (timeOutAll s).ce = s.ce := by
  simp [timeOutAll]

@[simp] theorem timeOutAll_pending (s : State) : (timeOutAll s).pending = s.pending := by
  simp [timeOutAll]


/-! ### keepPage -/

@[simp] theorem keepPage_pins (i : Slot) (p : Page) (b : Bool) (s : State) : (keepPage i p b s).pins = s.pins := by
  unfold keepPage
  repeat' split
  all_goals simp_all
@[simp] theorem keepPage_win (i : Slot) (p : Page) (b : Bool) (s : State) : (keepPage i p b s).win = s.win := by
  unfold keepPage
  repeat' split
  all_goals simp_all
@[simp] theorem keepPage_px (i : Slot) (p : Page) (b : Bool) (s : State) : (keepPage i p b s).px = s.px := by
  unfold keepPage
  repeat' split
  all_goals simp_all
@[simp] theorem keepPage_link (i : Slot) (p : Page) (b : Bool) (s : State) : (keepPage i p b s).link = s.link := by
  unfold keepPage
  repeat' split
  all_goals simp_all
@[simp] theorem keepPage_sched (i : Slot) (p : Page) (b : Bool) (s : State) : (keepPage i p b s).sched = s.sched := by
  unfold keepPage
  repeat' split
  all_goals simp_all
@[simp] theorem keepPage_ce (i : Slot) (p : Page) (b : Bool) (s : State) : (keepPage i p b s).ce = s.ce := by
  unfold keepPage
  repeat' split
  all_goals simp_all
@[simp] theorem keepPage_mu (i : Slot) (p : Page) (b : Bool) (s : State) : (keepPage i p b s).mu = s.mu := by
  unfold keepPage
  repeat' split
  all_goals simp_all
@[simp] theorem keepPage_nq (i : Slot) (p : Page) (b : Bool) (s : State) : (keepPage i p b s).nq = s.nq := by
  unfold keepPage
  repeat' split
  all_goals simp_all
@[simp] theorem keepPage_pending (i : Slot) (p : Page) (b : Bool) (s : State) : (keepPage i p b s).pending = s.pending := by
  unfold keepPage
  repeat' split
  all_goals simp_all

/-! ### endStep -/

@[simp] theorem endStep_pins (i : Slot) (c : Context) (b : Bool) (s : State) : (endStep i c b s).pins = s.pins := by
  unfold endStep
  repeat' split
  all_goals simp_all
@[simp] theorem endStep_win (i : Slot) (c : Context) (b : Bool) (s : State) : (endStep i c b s).win = s.win := by
  unfold endStep
  repeat' split
  all_goals simp_all
@[simp] theorem endStep_px (i : Slot) (c : Context) (b : Bool) (s : State) : (endStep i c b s).px = s.px := by
  unfold endStep
  repeat' split
  all_goals simp_all
@[simp] theorem endStep_link (i : Slot) (c : Context) (b : Bool) (s : State) : (endStep i c b s).link = s.link := by
  unfold endStep
  repeat' split
  all_goals simp_all
@[simp] theorem endStep_ce (i : Slot) (c : Context) (b : Bool) (s : State) : (endStep i c b s).ce = s.ce := by
  unfold endStep
  repeat' split
  all_goals simp_all
@[simp] theorem endStep_pending (i : Slot) (c : Context) (b : Bool) (s : State) : (endStep i c b s).pending = s.pending := by
  unfold endStep
  repeat' split
  all_goals simp_all

/-! ### judgePage -/

@[simp] theorem judgePage_pins (i : Slot) (c : Context) (p : Page) (b : Bool) (s : State) : (judgePage i c p b s).pins = s.pins := by
  unfold judgePage
  repeat' split
  all_goals simp_all
@[simp] theorem judgePage_win (i : Slot) (c : Context) (p : Page) (b : Bool) (s : State) : (judgePage i c p b s).win = s.win := by
  unfold judgePage
  repeat' split
  all_goals simp_all
@[simp] theorem judgePage_px (i : Slot) (c : Context) (p : Page) (b : Bool) (s : State) : (judgePage i c p b s).px = s.px := by
  unfold judgePage
  repeat' split
  all_goals simp_all
@[simp] theorem judgePage_link (i : Slot) (c : Context) (p : Page) (b : Bool) (s : State) : (judgePage i c p b s).link = s.link := by
  unfold judgePage
  repeat' split
  all_goals simp_all
@[simp] theorem judgePage_ce (i : Slot) (c : Context) (p : Page) (b : Bool) (s : State) : (judgePage i c p b s).ce = s.ce := by
  unfold judgePage
  repeat' split
  all_goals simp_all
@[simp] theorem judgePage_pending (i : Slot) (c : Context) (p : Page) (b : Bool) (s : State) : (judgePage i c p b s).pending = s.pending := by
  unfold judgePage
  repeat' split
  all_goals simp_all

/-! ### pageStep -/

@[simp] theorem pageStep_pins (i : Slot) (c : Context) (p : Page) (s : State) : (pageStep i c p s).pins = s.pins := by
  unfold pageStep
  repeat' split
  all_goals simp_all
@[simp] theorem pageStep_win (i : Slot) (c : Context) (p : Page) (s : State) : (pageStep i c p s).win = s.win := by
  unfold pageStep
  repeat' split
  all_goals simp_all
@[simp] theorem pageStep_px (i : Slot) (c : Context) (p : Page) (s : State) : (pageStep i c p s).px = s.px := by
  unfold pageStep
  repeat' split
  all_goals simp_all
@[simp] theorem pageStep_link (i : Slot) (c : Context) (p : Page) (s : State) : (pageStep i c p s).link = s.link := by
  unfold pageStep
  repeat' split
  all_goals simp_all
@[simp] theorem pageStep_ce (i : Slot) (c : Context) (p : Page) (s : State) : (pageStep i c p s).ce = s.ce := by
  unfold pageStep
  repeat' split
  all_goals simp_all
@[simp] theorem pageStep_pending (i : Slot) (c : Context) (p : Page) (s : State) : (pageStep i c p s).pending = s.pending := by
  unfold pageStep
  repeat' split
  all_goals simp_all

/-! ### deliverPage -/

@[simp] theorem deliverPage_pins (i : Slot) (o : ExchangeOutcome) (s : State) : (deliverPage i o s).pins = s.pins := by
  unfold deliverPage
  repeat' split
  all_goals simp_all
@[simp] theorem deliverPage_win (i : Slot) (o : ExchangeOutcome) (s : State) : (deliverPage i o s).win = s.win := by
  unfold deliverPage
  repeat' split
  all_goals simp_all
@[simp] theorem deliverPage_px (i : Slot) (o : ExchangeOutcome) (s : State) : (deliverPage i o s).px = s.px := by
  unfold deliverPage
  repeat' split
  all_goals simp_all
@[simp] theorem deliverPage_link (i : Slot) (o : ExchangeOutcome) (s : State) : (deliverPage i o s).link = s.link := by
  unfold deliverPage
  repeat' split
  all_goals simp_all
@[simp] theorem deliverPage_ce (i : Slot) (o : ExchangeOutcome) (s : State) : (deliverPage i o s).ce = s.ce := by
  unfold deliverPage
  repeat' split
  all_goals simp_all
@[simp] theorem deliverPage_pending (i : Slot) (o : ExchangeOutcome) (s : State) : (deliverPage i o s).pending = s.pending := by
  unfold deliverPage
  repeat' split
  all_goals simp_all

/-! ### deliverSettle -/

@[simp] theorem deliverSettle_pins (i : Slot) (o : ExchangeOutcome) (s : State) : (deliverSettle i o s).pins = s.pins := by
  unfold deliverSettle
  repeat' split
  all_goals simp_all
@[simp] theorem deliverSettle_win (i : Slot) (o : ExchangeOutcome) (s : State) : (deliverSettle i o s).win = s.win := by
  unfold deliverSettle
  repeat' split
  all_goals simp_all
@[simp] theorem deliverSettle_px (i : Slot) (o : ExchangeOutcome) (s : State) : (deliverSettle i o s).px = s.px := by
  unfold deliverSettle
  repeat' split
  all_goals simp_all
@[simp] theorem deliverSettle_link (i : Slot) (o : ExchangeOutcome) (s : State) : (deliverSettle i o s).link = s.link := by
  unfold deliverSettle
  repeat' split
  all_goals simp_all
@[simp] theorem deliverSettle_ce (i : Slot) (o : ExchangeOutcome) (s : State) : (deliverSettle i o s).ce = s.ce := by
  unfold deliverSettle
  repeat' split
  all_goals simp_all
@[simp] theorem deliverSettle_pending (i : Slot) (o : ExchangeOutcome) (s : State) : (deliverSettle i o s).pending = s.pending := by
  unfold deliverSettle
  repeat' split
  all_goals simp_all

/-! ### stopCensus -/

@[simp] theorem stopCensus_pins (i : Slot) (k : NoticeKind) (d : Byte) (s : State) : (stopCensus i k d s).pins = s.pins := by
  simp [stopCensus]

@[simp] theorem stopCensus_win (i : Slot) (k : NoticeKind) (d : Byte) (s : State) : (stopCensus i k d s).win = s.win := by
  simp [stopCensus]

@[simp] theorem stopCensus_px (i : Slot) (k : NoticeKind) (d : Byte) (s : State) : (stopCensus i k d s).px = s.px := by
  simp [stopCensus]

@[simp] theorem stopCensus_link (i : Slot) (k : NoticeKind) (d : Byte) (s : State) : (stopCensus i k d s).link = s.link := by
  simp [stopCensus]

@[simp] theorem stopCensus_sched (i : Slot) (k : NoticeKind) (d : Byte) (s : State) : (stopCensus i k d s).sched = s.sched := by
  simp [stopCensus]

@[simp] theorem stopCensus_ce (i : Slot) (k : NoticeKind) (d : Byte) (s : State) : (stopCensus i k d s).ce = s.ce := by
  simp [stopCensus]

@[simp] theorem stopCensus_mu (i : Slot) (k : NoticeKind) (d : Byte) (s : State) : (stopCensus i k d s).mu = s.mu := by
  simp [stopCensus]

@[simp] theorem stopCensus_pending (i : Slot) (k : NoticeKind) (d : Byte) (s : State) : (stopCensus i k d s).pending = s.pending := by
  simp [stopCensus]


/-! ### deliverCensus -/

@[simp] theorem deliverCensus_pins (i : Slot) (o : ExchangeOutcome) (s : State) : (deliverCensus i o s).pins = s.pins := by
  unfold deliverCensus
  repeat' split
  all_goals simp_all
@[simp] theorem deliverCensus_win (i : Slot) (o : ExchangeOutcome) (s : State) : (deliverCensus i o s).win = s.win := by
  unfold deliverCensus
  repeat' split
  all_goals simp_all
@[simp] theorem deliverCensus_px (i : Slot) (o : ExchangeOutcome) (s : State) : (deliverCensus i o s).px = s.px := by
  unfold deliverCensus
  repeat' split
  all_goals simp_all
@[simp] theorem deliverCensus_link (i : Slot) (o : ExchangeOutcome) (s : State) : (deliverCensus i o s).link = s.link := by
  unfold deliverCensus
  repeat' split
  all_goals simp_all
@[simp] theorem deliverCensus_sched (i : Slot) (o : ExchangeOutcome) (s : State) : (deliverCensus i o s).sched = s.sched := by
  unfold deliverCensus
  repeat' split
  all_goals simp_all
@[simp] theorem deliverCensus_ce (i : Slot) (o : ExchangeOutcome) (s : State) : (deliverCensus i o s).ce = s.ce := by
  unfold deliverCensus
  repeat' split
  all_goals simp_all
@[simp] theorem deliverCensus_mu (i : Slot) (o : ExchangeOutcome) (s : State) : (deliverCensus i o s).mu = s.mu := by
  unfold deliverCensus
  repeat' split
  all_goals simp_all
@[simp] theorem deliverCensus_pending (i : Slot) (o : ExchangeOutcome) (s : State) : (deliverCensus i o s).pending = s.pending := by
  unfold deliverCensus
  repeat' split
  all_goals simp_all

/-! ### deliverRelease -/

@[simp] theorem deliverRelease_pins (i : Slot) (s : State) : (deliverRelease i s).pins = s.pins := by
  unfold deliverRelease
  repeat' split
  all_goals simp_all
@[simp] theorem deliverRelease_win (i : Slot) (s : State) : (deliverRelease i s).win = s.win := by
  unfold deliverRelease
  repeat' split
  all_goals simp_all
@[simp] theorem deliverRelease_px (i : Slot) (s : State) : (deliverRelease i s).px = s.px := by
  unfold deliverRelease
  repeat' split
  all_goals simp_all
@[simp] theorem deliverRelease_link (i : Slot) (s : State) : (deliverRelease i s).link = s.link := by
  unfold deliverRelease
  repeat' split
  all_goals simp_all
@[simp] theorem deliverRelease_sched (i : Slot) (s : State) : (deliverRelease i s).sched = s.sched := by
  unfold deliverRelease
  repeat' split
  all_goals simp_all
@[simp] theorem deliverRelease_ce (i : Slot) (s : State) : (deliverRelease i s).ce = s.ce := by
  unfold deliverRelease
  repeat' split
  all_goals simp_all
@[simp] theorem deliverRelease_mu (i : Slot) (s : State) : (deliverRelease i s).mu = s.mu := by
  unfold deliverRelease
  repeat' split
  all_goals simp_all
@[simp] theorem deliverRelease_nq (i : Slot) (s : State) : (deliverRelease i s).nq = s.nq := by
  unfold deliverRelease
  repeat' split
  all_goals simp_all
@[simp] theorem deliverRelease_pending (i : Slot) (s : State) : (deliverRelease i s).pending = s.pending := by
  unfold deliverRelease
  repeat' split
  all_goals simp_all

/-! ### deliver -/

@[simp] theorem deliver_pins (c : Call) (o : ExchangeOutcome) (s : State) : (deliver c o s).pins = s.pins := by
  unfold deliver
  repeat' split
  all_goals simp_all
@[simp] theorem deliver_win (c : Call) (o : ExchangeOutcome) (s : State) : (deliver c o s).win = s.win := by
  unfold deliver
  repeat' split
  all_goals simp_all
@[simp] theorem deliver_px (c : Call) (o : ExchangeOutcome) (s : State) : (deliver c o s).px = s.px := by
  unfold deliver
  repeat' split
  all_goals simp_all
@[simp] theorem deliver_link (c : Call) (o : ExchangeOutcome) (s : State) : (deliver c o s).link = s.link := by
  unfold deliver
  repeat' split
  all_goals simp_all
@[simp] theorem deliver_pending (c : Call) (o : ExchangeOutcome) (s : State) : (deliver c o s).pending = s.pending := by
  unfold deliver
  repeat' split
  all_goals simp_all

/-! ### finishExchange -/

@[simp] theorem finishExchange_pins (s : State) : (finishExchange s).pins = s.pins := by
  simp [finishExchange]

@[simp] theorem finishExchange_win (s : State) : (finishExchange s).win = s.win := by
  simp [finishExchange]

@[simp] theorem finishExchange_px (s : State) : (finishExchange s).px = s.px := by
  simp [finishExchange]

@[simp] theorem finishExchange_pending (s : State) : (finishExchange s).pending = s.pending := by
  simp [finishExchange]


/-! ### endAttempt -/

@[simp] theorem endAttempt_pins (o : ExchangeOutcome) (s : State) : (endAttempt o s).pins = s.pins := by
  unfold endAttempt
  repeat' split
  all_goals simp_all
@[simp] theorem endAttempt_win (o : ExchangeOutcome) (s : State) : (endAttempt o s).win = s.win := by
  unfold endAttempt
  repeat' split
  all_goals simp_all
@[simp] theorem endAttempt_px (o : ExchangeOutcome) (s : State) : (endAttempt o s).px = s.px := by
  unfold endAttempt
  repeat' split
  all_goals simp_all
@[simp] theorem endAttempt_pending (o : ExchangeOutcome) (s : State) : (endAttempt o s).pending = s.pending := by
  unfold endAttempt
  repeat' split
  all_goals simp_all

/-! ### takeWork -/

@[simp] theorem takeWork_pins (w : Work) (s : State) : (takeWork w s).pins = s.pins := by
  unfold takeWork
  repeat' split
  all_goals simp_all
@[simp] theorem takeWork_win (w : Work) (s : State) : (takeWork w s).win = s.win := by
  unfold takeWork
  repeat' split
  all_goals simp_all
@[simp] theorem takeWork_px (w : Work) (s : State) : (takeWork w s).px = s.px := by
  unfold takeWork
  repeat' split
  all_goals simp_all
@[simp] theorem takeWork_mu (w : Work) (s : State) : (takeWork w s).mu = s.mu := by
  unfold takeWork
  repeat' split
  all_goals simp_all
@[simp] theorem takeWork_nq (w : Work) (s : State) : (takeWork w s).nq = s.nq := by
  unfold takeWork
  repeat' split
  all_goals simp_all
@[simp] theorem takeWork_pending (w : Work) (s : State) : (takeWork w s).pending = s.pending := by
  unfold takeWork
  repeat' split
  all_goals simp_all

/-! ### chooseCall -/

@[simp] theorem chooseCall_pins (s : State) : (chooseCall s).pins = s.pins := by
  unfold chooseCall
  repeat' split
  all_goals simp_all
@[simp] theorem chooseCall_win (s : State) : (chooseCall s).win = s.win := by
  unfold chooseCall
  repeat' split
  all_goals simp_all
@[simp] theorem chooseCall_px (s : State) : (chooseCall s).px = s.px := by
  unfold chooseCall
  repeat' split
  all_goals simp_all
@[simp] theorem chooseCall_mu (s : State) : (chooseCall s).mu = s.mu := by
  unfold chooseCall
  repeat' split
  all_goals simp_all
@[simp] theorem chooseCall_nq (s : State) : (chooseCall s).nq = s.nq := by
  unfold chooseCall
  repeat' split
  all_goals simp_all
@[simp] theorem chooseCall_pending (s : State) : (chooseCall s).pending = s.pending := by
  unfold chooseCall
  repeat' split
  all_goals simp_all

/-! ### expireInFlight -/

@[simp] theorem expireInFlight_pins (s : State) : (expireInFlight s).pins = s.pins := by
  unfold expireInFlight
  repeat' split
  all_goals simp_all
@[simp] theorem expireInFlight_win (s : State) : (expireInFlight s).win = s.win := by
  unfold expireInFlight
  repeat' split
  all_goals simp_all
@[simp] theorem expireInFlight_table (s : State) : (expireInFlight s).table = s.table := by
  unfold expireInFlight
  repeat' split
  all_goals simp_all
@[simp] theorem expireInFlight_px (s : State) : (expireInFlight s).px = s.px := by
  unfold expireInFlight
  repeat' split
  all_goals simp_all
@[simp] theorem expireInFlight_link (s : State) : (expireInFlight s).link = s.link := by
  unfold expireInFlight
  repeat' split
  all_goals simp_all
@[simp] theorem expireInFlight_sched (s : State) : (expireInFlight s).sched = s.sched := by
  unfold expireInFlight
  repeat' split
  all_goals simp_all
@[simp] theorem expireInFlight_mu (s : State) : (expireInFlight s).mu = s.mu := by
  unfold expireInFlight
  repeat' split
  all_goals simp_all
@[simp] theorem expireInFlight_nq (s : State) : (expireInFlight s).nq = s.nq := by
  unfold expireInFlight
  repeat' split
  all_goals simp_all
@[simp] theorem expireInFlight_pending (s : State) : (expireInFlight s).pending = s.pending := by
  unfold expireInFlight
  repeat' split
  all_goals simp_all
@[simp] theorem expireInFlight_entry (s : State) (j : Slot) : (expireInFlight s).entry j = s.entry j :=
  entry_congr (expireInFlight_table s) j


/-! ### expireFold -/

@[simp] theorem expireFold_pins (l : List (Nat × Slot)) (s : State) : (l.foldl expireOutstanding s).pins = s.pins := by
  induction l generalizing s with
  | nil => rfl
  | cons x xs ih => simp [ih, expireOutstanding]
@[simp] theorem expireFold_win (l : List (Nat × Slot)) (s : State) : (l.foldl expireOutstanding s).win = s.win := by
  induction l generalizing s with
  | nil => rfl
  | cons x xs ih => simp [ih, expireOutstanding]
@[simp] theorem expireFold_px (l : List (Nat × Slot)) (s : State) : (l.foldl expireOutstanding s).px = s.px := by
  induction l generalizing s with
  | nil => rfl
  | cons x xs ih => simp [ih, expireOutstanding]
@[simp] theorem expireFold_link (l : List (Nat × Slot)) (s : State) : (l.foldl expireOutstanding s).link = s.link := by
  induction l generalizing s with
  | nil => rfl
  | cons x xs ih => simp [ih, expireOutstanding]
@[simp] theorem expireFold_sched (l : List (Nat × Slot)) (s : State) : (l.foldl expireOutstanding s).sched = s.sched := by
  induction l generalizing s with
  | nil => rfl
  | cons x xs ih => simp [ih, expireOutstanding]
@[simp] theorem expireFold_mu (l : List (Nat × Slot)) (s : State) : (l.foldl expireOutstanding s).mu = s.mu := by
  induction l generalizing s with
  | nil => rfl
  | cons x xs ih => simp [ih, expireOutstanding]
@[simp] theorem expireFold_nq (l : List (Nat × Slot)) (s : State) : (l.foldl expireOutstanding s).nq = s.nq := by
  induction l generalizing s with
  | nil => rfl
  | cons x xs ih => simp [ih, expireOutstanding]
@[simp] theorem expireFold_pending (l : List (Nat × Slot)) (s : State) : (l.foldl expireOutstanding s).pending = s.pending := by
  induction l generalizing s with
  | nil => rfl
  | cons x xs ih => simp [ih, expireOutstanding]

/-! ### expireCommands -/

@[simp] theorem expireCommands_pins (s : State) : (expireCommands s).pins = s.pins := by
  simp [expireCommands]

@[simp] theorem expireCommands_win (s : State) : (expireCommands s).win = s.win := by
  simp [expireCommands]

@[simp] theorem expireCommands_px (s : State) : (expireCommands s).px = s.px := by
  simp [expireCommands]

@[simp] theorem expireCommands_link (s : State) : (expireCommands s).link = s.link := by
  simp [expireCommands]

@[simp] theorem expireCommands_sched (s : State) : (expireCommands s).sched = s.sched := by
  simp [expireCommands]

@[simp] theorem expireCommands_mu (s : State) : (expireCommands s).mu = s.mu := by
  simp [expireCommands]

@[simp] theorem expireCommands_nq (s : State) : (expireCommands s).nq = s.nq := by
  simp [expireCommands]

@[simp] theorem expireCommands_pending (s : State) : (expireCommands s).pending = s.pending := by
  simp [expireCommands]


/-! ### The entries that an operation writes -/

theorem oweVerdict_entry (i : Slot) (v : Verdict) (b : Bool) (s : State) (j : Slot) :
    (oweVerdict i v b s).entry j =
      if j = i then { s.entry i with verdictOwed := some ⟨v, b⟩, lastVerdict := some v } else s.entry j := by
  have h := entry_updEntry i j (fun e => { e with verdictOwed := some ⟨v, b⟩, lastVerdict := some v }) s
  exact h

theorem clearOwed_entry (i : Slot) (s : State) (j : Slot) :
    (clearOwed i s).entry j = if j = i then { s.entry i with verdictOwed := none } else s.entry j := by
  have h := entry_updEntry i j (fun e => { e with verdictOwed := none }) s
  exact h

theorem decideEntry_entry (d : Deferred) (x : Decision) (s : State) (j : Slot) :
    (decideEntry d x s).entry j =
      if j = d.slot then
        { s.entry d.slot with
          verdictOwed := some ⟨⟨d.number, x.code, x.reason⟩, false⟩
          lastVerdict := some ⟨d.number, x.code, x.reason⟩ }
      else s.entry j :=
  oweVerdict_entry d.slot _ _ _ j

theorem startCommand_entry (q : QueuedCommand) (s : State) (j : Slot) :
    (startCommand q s).entry j =
      if j = q.held.cmd.target then
        { s.entry q.held.cmd.target with seqBit := !(s.entry q.held.cmd.target).seqBit }
      else s.entry j := by
  have h := entry_updEntry q.held.cmd.target j (fun e => { e with seqBit := !(s.entry q.held.cmd.target).seqBit }) s
  exact h

theorem restartTable_entry (s : State) (j : Slot) :
    (restartTable s).entry j = { (allSlots.foldl restartEntry s).entry j with releaseOwed := false } := by
  unfold restartTable
  generalize allSlots.foldl restartEntry s = t
  simp [State.entry]

@[simp] theorem msTick_entry (l r : Level) (s : State) (j : Slot) :
    (msTick l r s).entry j = Entry.tick (s.sched.mscount + 1) (s.entry j) := by
  simp [State.entry, msTick]

@[simp] theorem softReset_entry (s : State) (j : Slot) : (softReset s).entry j = (s.entry j).softReset := by
  simp [State.entry, softReset]

end Sys2Proof.Machine
end

