-- ==== Sys2Proof/Laws/Commands.lean ====
section
/-! SUPPORT. The reservation: how each shared operation moves it, and that every one keeps the bounds of the command and
completion queues. -/

namespace Sys2Proof.Machine

/-- An entry's share of the reservation count: 1 if it holds an outstanding command. -/
def Entry.share (e : Entry) : Nat := if e.outstanding?.isSome then 1 else 0

theorem outstandingCount_setEntry (i : Slot) (e : Entry) (s : State) :
    (s.setEntry i e).outstandingCount + (s.entry i).share = s.outstandingCount + e.share := by
  have hi : i.val < s.table.toList.length := by simp
  have hget : s.table.toList[i.val] = s.entry i := by simp [State.entry]
  have hc := List.countP_set (p := fun e : Entry => e.outstanding?.isSome) (l := s.table.toList) (i := i.val) (a := e) hi
  have hpos : (s.entry i).share ≤ s.outstandingCount := by
    unfold Entry.share State.outstandingCount
    split
    · rename_i h
      exact List.countP_pos_iff.mpr ⟨_, List.getElem_mem hi, by rw [hget]; exact h⟩
    · exact Nat.zero_le _
  rw [hget] at hc
  unfold State.outstandingCount at *
  unfold Entry.share at *
  rw [setEntry_table, Vector.toList_set, hc]
  omega

theorem outstandingCount_congr {s t : State} (h : t.table = s.table) : t.outstandingCount = s.outstandingCount := by
  simp [State.outstandingCount, h]

theorem reservation_congr {s t : State} (h : t.table = s.table) (hc : t.ce = s.ce) : t.reservation = s.reservation := by
  simp [State.reservation, outstandingCount_congr h, hc]

theorem reservation_of_ce {s t : State} (hc : t.ce = s.ce) :
    t.reservation + s.outstandingCount = s.reservation + t.outstandingCount := by
  unfold State.reservation
  rw [hc]
  omega

theorem appendCompletion_reservation (c : Completion) (s : State) :
    (appendCompletion c s).reservation = s.reservation + 1 := by
  unfold State.reservation
  rw [outstandingCount_congr (t := appendCompletion c s) (s := s) rfl]
  show (s.ce.completions ++ [c]).length + (if s.ce.inFlight.isSome then 1 else 0) + _ = _
  rw [List.length_append, List.length_singleton]
  omega

theorem clearInFlight_reservation (s : State) (h : s.ce.inFlight.isSome) :
    (clearInFlight s).reservation + 1 = s.reservation := by
  unfold State.reservation
  rw [outstandingCount_congr (t := clearInFlight s) (s := s) rfl]
  simp [h]
  omega

theorem commandsOk_congr {s t : State} (h : t.table = s.table) (hc : t.ce = s.ce) (hs : CommandsOk s) :
    CommandsOk t := by
  simpa [CommandsOk, reservation_congr h hc, hc] using hs

theorem commandsOk_updEntry (i : Slot) (f : Entry → Entry) {s : State}
    (hf : (f (s.entry i)).outstanding?.isSome → (s.entry i).outstanding?.isSome) (h : CommandsOk s) :
    CommandsOk (s.updEntry i f) := by
  obtain ⟨h1, h2⟩ := h
  refine ⟨h1, ?_⟩
  have hc := outstandingCount_setEntry i (f (s.entry i)) s
  have hs : (f (s.entry i)).share ≤ (s.entry i).share := by
    unfold Entry.share
    split
    · rename_i hx
      simp [hf hx]
    · exact Nat.zero_le _
  have hr : (s.setEntry i (f (s.entry i))).reservation + s.outstandingCount = _ := reservation_of_ce (s := s) rfl
  show (s.setEntry i (f (s.entry i))).reservation ≤ 16
  omega

theorem post_commandsOk (k : NoticeKind) (a b : Byte) {s : State} (h : CommandsOk s) : CommandsOk (post k a b s) :=
  commandsOk_congr (by simp) (by simp) h

theorem orphan_commandsOk (i : Slot) {s : State} (h : CommandsOk s) : CommandsOk (orphan i s) :=
  commandsOk_congr (by simp) (by simp) h

theorem postPagesDropped_commandsOk (i : Slot) {s : State} (h : CommandsOk s) : CommandsOk (postPagesDropped i s) :=
  commandsOk_congr (by simp) (by simp) h

theorem commandsOk_updEntry_of_state (i : Slot) (f : Entry → Entry) {s : State}
    (hf : ∀ e, (f e).state = e.state) (h : CommandsOk s) : CommandsOk (s.updEntry i f) :=
  commandsOk_updEntry i f (by simp [Entry.outstanding?, Entry.active?, hf]) h

/-! ### Settled commands -/

theorem takeSettled_length (room : Nat) (q : List QueuedCommand) :
    (takeSettled room q).2.length ≤ room ∧ (takeSettled room q).1.length + (takeSettled room q).2.length = q.length := by
  induction q generalizing room with
  | nil => simp [takeSettled]
  | cons x xs ih =>
    cases hx : x.settled with
    | none =>
      have := ih room
      simp only [takeSettled, hx, List.length_cons]
      omega
    | some st =>
      cases room with
      | zero =>
        have := ih 0
        simp only [takeSettled, hx, List.length_cons]
        omega
      | succ k =>
        have := ih k
        simp only [takeSettled, hx, List.length_cons]
        omega

theorem flushSettled_commandsOk {s : State} (h : CommandsOk s) : CommandsOk (flushSettled s) := by
  obtain ⟨h1, h2⟩ := h
  have hl := takeSettled_length (Config.completionPlaces - s.reservation) s.ce.queue
  have hc : (flushSettled s).outstandingCount = s.outstandingCount := outstandingCount_congr rfl
  constructor
  · show (takeSettled (Config.completionPlaces - s.reservation) s.ce.queue).1.length ≤ 16
    omega
  · have hr : (flushSettled s).reservation =
        (s.ce.completions ++ (takeSettled (Config.completionPlaces - s.reservation) s.ce.queue).2).length +
          (if s.ce.inFlight.isSome then 1 else 0) + s.outstandingCount := by
      rw [← hc]
      rfl
    rw [hr, List.length_append]
    unfold State.reservation at *
    simp only [Config.completionPlaces] at *
    omega

theorem settle_commandsOk (pick : QueuedCommand → Bool) (st : CompletionStatus) {s : State} (h : CommandsOk s) :
    CommandsOk (settle pick st s) := by
  refine flushSettled_commandsOk ⟨?_, ?_⟩
  · simpa using h.1
  · exact h.2

theorem settleSlot_commandsOk (i : Slot) (st : CompletionStatus) {s : State} (h : CommandsOk s) :
    CommandsOk (settleSlot i st s) := settle_commandsOk _ _ h

/-! ### Outstanding commands -/

@[simp] theorem setOutstanding_none_outstanding (e : Entry) : (e.setOutstanding none).outstanding? = none := by
  unfold Entry.setOutstanding Entry.updActive Entry.outstanding? Entry.active?
  cases h : e.state <;> simp [h]

theorem completeOutstanding_reservation (i : Slot) (st : CompletionStatus) (l : List Byte) (s : State) :
    (completeOutstanding i st l s).reservation = s.reservation := by
  unfold completeOutstanding
  split
  · rfl
  · rename_i o ho
    have hc := outstandingCount_setEntry i ((s.entry i).setOutstanding none) s
    have h1 : (s.entry i).share = 1 := by simp [Entry.share, ho]
    have h0 : ((s.entry i).setOutstanding none).share = 0 := by simp [Entry.share]
    rw [h1, h0] at hc
    rw [appendCompletion_reservation]
    show (s.setEntry i ((s.entry i).setOutstanding none)).reservation + 1 = s.reservation
    have hq := reservation_of_ce (s := s) (t := s.setEntry i ((s.entry i).setOutstanding none)) rfl
    omega

theorem completeOutstanding_queue (i : Slot) (st : CompletionStatus) (l : List Byte) (s : State) :
    (completeOutstanding i st l s).ce.queue = s.ce.queue := by
  unfold completeOutstanding
  split <;> simp

theorem completeOutstanding_commandsOk (i : Slot) (st : CompletionStatus) (l : List Byte) {s : State}
    (h : CommandsOk s) : CommandsOk (completeOutstanding i st l s) := by
  rw [CommandsOk, completeOutstanding_reservation, completeOutstanding_queue]
  exact h

/-! ### Entering a state -/

theorem renegotiate_commandsOk (i : Slot) (c : Byte) {s : State} (h : CommandsOk s) :
    CommandsOk (renegotiate i c s) := by
  unfold renegotiate
  refine post_commandsOk _ _ _ (commandsOk_updEntry i _ ?_ (completeOutstanding_commandsOk i _ _ h))
  simp [Entry.outstanding?, Entry.active?]

theorem enterNegotiating_commandsOk (i : Slot) (c : BitVec 4) {s : State} (h : CommandsOk s) :
    CommandsOk (enterNegotiating i c s) := by
  unfold enterNegotiating
  refine post_commandsOk _ _ _ (commandsOk_updEntry i _ ?_ h)
  simp [Entry.outstanding?, Entry.active?]

theorem enterActive_commandsOk (i : Slot) (p : Profile) {s : State} (h : CommandsOk s) :
    CommandsOk (enterActive i p s) := by
  unfold enterActive
  refine post_commandsOk _ _ _ (commandsOk_updEntry i _ ?_ (postPagesDropped_commandsOk i h))
  simp [Entry.outstanding?, Entry.active?, ActiveData.initial]

theorem clearOwed_commandsOk (i : Slot) {s : State} (h : CommandsOk s) : CommandsOk (clearOwed i s) :=
  commandsOk_congr (s := s.updEntry i fun e => { e with verdictOwed := none }) rfl rfl
    (commandsOk_updEntry_of_state i _ (fun _ => rfl) h)

theorem oweVerdict_commandsOk (i : Slot) (v : Verdict) (b : Bool) {s : State} (h : CommandsOk s) :
    CommandsOk (oweVerdict i v b s) :=
  commandsOk_congr (s := s.updEntry i fun e => { e with verdictOwed := some ⟨v, b⟩, lastVerdict := some v }) rfl rfl
    (commandsOk_updEntry_of_state i _ (fun _ => rfl) h)

theorem enterFailed_commandsOk (i : Slot) (c : FaultCode) {s : State} (h : CommandsOk s) :
    CommandsOk (enterFailed i c s) := by
  unfold enterFailed
  refine post_commandsOk _ _ _ (orphan_commandsOk i (clearOwed_commandsOk i (commandsOk_updEntry i _ ?_
    (postPagesDropped_commandsOk i h))))
  simp [Entry.outstanding?, Entry.active?]

theorem enterLost_commandsOk (i : Slot) {s : State} (h : CommandsOk s) : CommandsOk (enterLost i s) := by
  unfold enterLost
  refine orphan_commandsOk i (post_commandsOk _ _ _ (clearOwed_commandsOk i (commandsOk_updEntry i _ ?_
    (settleSlot_commandsOk i _ (completeOutstanding_commandsOk i _ _ h)))))
  simp [Entry.outstanding?, Entry.active?]

theorem endCommands_commandsOk (i : Slot) (st : CompletionStatus) {s : State} (h : CommandsOk s) :
    CommandsOk (endCommands i st s) := by
  unfold endCommands
  split
  · exact settleSlot_commandsOk i _ (completeOutstanding_commandsOk i _ _ h)
  · exact h

theorem enterVacant_commandsOk (i : Slot) (st : CompletionStatus) {s : State} (h : CommandsOk s) :
    CommandsOk (enterVacant i st s) := by
  unfold enterVacant
  refine orphan_commandsOk i (clearOwed_commandsOk i (commandsOk_updEntry i _ ?_ (endCommands_commandsOk i st h)))
  simp [Entry.outstanding?, Entry.active?]

theorem restartFold_commandsOk (l : List Slot) {s : State} (h : CommandsOk s) :
    CommandsOk (l.foldl restartEntry s) := by
  induction l generalizing s with
  | nil => exact h
  | cons i l ih =>
    refine ih ?_
    unfold restartEntry
    split
    · exact h
    · exact enterVacant_commandsOk i _ h

theorem restartTable_commandsOk {s : State} (h : CommandsOk s) : CommandsOk (restartTable s) := by
  have hf := restartFold_commandsOk allSlots h
  unfold restartTable
  generalize allSlots.foldl restartEntry s = t at hf ⊢
  refine post_commandsOk _ _ _ ⟨hf.1, ?_⟩
  have ho : State.outstandingCount { t with table := t.table.map fun e => { e with releaseOwed := false } } =
      t.outstandingCount := by
    simp only [State.outstandingCount, Vector.toList_map, List.countP_map]
    rfl
  have hr := hf.2
  unfold State.reservation at *
  rw [ho]
  exact hr

theorem beginRestart_commandsOk {s : State} (h : CommandsOk s) : CommandsOk (beginRestart s) :=
  commandsOk_congr (by simp [beginRestart]) (by simp [beginRestart])
    (restartTable_commandsOk (s := s.setLink { s.link with restartPending := false }) (commandsOk_congr rfl rfl h))

theorem afterWork_commandsOk {s : State} (h : CommandsOk s) : CommandsOk (afterWork s) := by
  unfold afterWork
  repeat' split
  · exact beginRestart_commandsOk h
  · exact commandsOk_congr rfl rfl h
  · exact commandsOk_congr rfl rfl h

/-! ### Admission and start -/

theorem acceptCommand_commandsOk (c : Command) {s : State} (h : CommandsOk s) (hq : s.ce.queue.length < 16) :
    CommandsOk (acceptCommand c s) := by
  refine ⟨?_, h.2⟩
  simp [acceptCommand]
  omega

theorem startCommand_commandsOk (q : QueuedCommand) {s : State} (h : CommandsOk s) (hr : s.reservation < 16) :
    CommandsOk (startCommand q s) := by
  have ht : (startCommand q s).outstandingCount = (s.updEntry q.held.cmd.target fun e =>
      { e with seqBit := !(s.entry q.held.cmd.target).seqBit }).outstandingCount := outstandingCount_congr rfl
  have hc := outstandingCount_setEntry q.held.cmd.target
    { s.entry q.held.cmd.target with seqBit := !(s.entry q.held.cmd.target).seqBit } s
  have hs : Entry.share { s.entry q.held.cmd.target with seqBit := !(s.entry q.held.cmd.target).seqBit } =
      (s.entry q.held.cmd.target).share := rfl
  rw [hs] at hc
  constructor
  · have := (List.eraseP_sublist (p := fun x : QueuedCommand => x.held.place == q.held.place) (l := s.ce.queue)).length_le
    have h1 := h.1
    show (s.ce.queue.eraseP fun x => x.held.place == q.held.place).length ≤ 16
    omega
  · have h3 : (startCommand q s).reservation = s.ce.completions.length + 1 + (startCommand q s).outstandingCount := rfl
    have h4 : s.ce.completions.length + s.outstandingCount ≤ s.reservation := by
      unfold State.reservation
      omega
    rw [h3, ht]
    show s.ce.completions.length + 1 + (s.setEntry q.held.cmd.target
      { s.entry q.held.cmd.target with seqBit := !(s.entry q.held.cmd.target).seqBit }).outstandingCount ≤ 16
    omega

theorem startable_reservation {s : State} {q : QueuedCommand} (h : s.startable = some q) : s.reservation < 16 := by
  have hq := List.find?_some h
  simp only [State.isCandidate, Bool.and_eq_true, decide_eq_true_eq] at hq
  exact hq.2

/-! ### The end of an exchange -/

theorem endInFlight_commandsOk (f : InFlight) (st : CompletionStatus) (b : Byte) (l : List Byte) {s : State}
    (h : CommandsOk s) (hf : s.ce.inFlight.isSome) : CommandsOk (endInFlight f st b l s) := by
  refine ⟨h.1, ?_⟩
  have hr := clearInFlight_reservation s hf
  have h2 := h.2
  unfold endInFlight
  rw [appendCompletion_reservation]
  omega

theorem endWorking_commandsOk (i : Slot) (f : InFlight) (q : Bool) {s : State} (h : CommandsOk s)
    (hf : s.ce.inFlight.isSome) : CommandsOk (endWorking i f q s) := by
  unfold endWorking
  split
  · refine ⟨h.1, ?_⟩
    have hc := outstandingCount_setEntry i ((s.entry i).setOutstanding (some ⟨f.held, q⟩)) s
    have hs : ((s.entry i).setOutstanding (some ⟨f.held, q⟩)).share ≤ 1 := by
      unfold Entry.share
      split <;> omega
    have hr := clearInFlight_reservation s hf
    have hq := reservation_of_ce (s := clearInFlight s)
      (t := (clearInFlight s).updEntry i (Entry.setOutstanding (some ⟨f.held, q⟩))) rfl
    have ho : (clearInFlight s).outstandingCount = s.outstandingCount := outstandingCount_congr rfl
    have ht : ((clearInFlight s).updEntry i (Entry.setOutstanding (some ⟨f.held, q⟩))).outstandingCount =
        (s.setEntry i ((s.entry i).setOutstanding (some ⟨f.held, q⟩))).outstandingCount := outstandingCount_congr rfl
    have h2 := h.2
    omega
  · exact endInFlight_commandsOk _ _ _ _ h hf

theorem clearMisses_commandsOk (i : Slot) {s : State} (h : CommandsOk s) : CommandsOk (clearMisses i s) :=
  commandsOk_updEntry_of_state i _ (fun _ => rfl) h

theorem clearMissesIfActive_commandsOk (i : Slot) {s : State} (h : CommandsOk s) :
    CommandsOk (clearMissesIfActive i s) := by
  unfold clearMissesIfActive
  split
  · exact clearMisses_commandsOk i h
  · exact h

theorem countMiss_commandsOk (i : Slot) {s : State} (h : CommandsOk s) : CommandsOk (countMiss i s) := by
  have hu : CommandsOk (s.updEntry i fun e => { e with missCount := e.missCount + 1 }) :=
    commandsOk_updEntry_of_state i _ (fun _ => rfl) h
  unfold countMiss
  split
  · exact enterLost_commandsOk i hu
  · exact hu

theorem countMissIfActive_commandsOk (i : Slot) {s : State} (h : CommandsOk s) :
    CommandsOk (countMissIfActive i s) := by
  unfold countMissIfActive
  split
  · exact countMiss_commandsOk i h
  · exact h

theorem deliverCommand_commandsOk (i : Slot) (q : Bool) (o : ExchangeOutcome) {s : State} (h : CommandsOk s) :
    CommandsOk (deliverCommand i q o s) := by
  unfold deliverCommand
  split
  · exact h
  · rename_i f hf
    have hsome : s.ce.inFlight.isSome := by simp [hf]
    have hcm := clearMissesIfActive_commandsOk i h
    split
    · exact endInFlight_commandsOk _ _ _ _ hcm (by simpa using hsome)
    · exact endInFlight_commandsOk _ _ _ _ hcm (by simpa using hsome)
    · exact endWorking_commandsOk _ _ _ hcm (by simpa using hsome)
    · exact h
    · exact countMissIfActive_commandsOk i (endInFlight_commandsOk _ _ _ _ h hsome)
    · exact countMissIfActive_commandsOk i (endInFlight_commandsOk _ _ _ _ h hsome)

theorem deliver_commandsOk (c : Call) (o : ExchangeOutcome) {s : State} (h : CommandsOk s) : CommandsOk (deliver c o s) := by
  have hu : ∀ (s : State) (i f), (∀ e : Entry, (f e).state = e.state) → CommandsOk s → CommandsOk (s.updEntry i f) := fun s i f hf h => commandsOk_updEntry_of_state i f hf h
  have hact : ∀ (s : State) i (f : ActiveData → ActiveData), (∀ d, (f d).outstanding = d.outstanding) → CommandsOk s → CommandsOk (s.updEntry i (fun e => e.updActive f)) := by
    intro s i f hf h
    refine commandsOk_updEntry i _ ?_ h
    unfold Entry.updActive Entry.outstanding? Entry.active?
    cases hs : (s.entry i).state <;> simp [hs, hf]
  unfold deliver; split
  · unfold deliverCensus stopCensus; repeat' split
    all_goals first | with_reducible exact h | with_reducible exact enterNegotiating_commandsOk _ _ h | with_reducible exact post_commandsOk _ _ _ (hu _ _ _ (fun _ => rfl) h)
  · unfold deliverPage; repeat' split
    · exact h
    · unfold pageStep; dsimp only; 
      have h1 : ∀ g : Entry → Option NegotiationRecord, CommandsOk (s.updEntry c.slot (fun e => {e with record := g e})) := fun g => hu _ _ _ (fun _ => rfl) h
      split
      · exact enterFailed_commandsOk _ _ (h1 _)
      · revert h1; intro h1
        have h2 := h1 (fun e => some (s.px.recordComply ‹_› ‹_› e.negotiationRecord))
        revert h2; generalize (s.updEntry c.slot _) = u; intro h2
        have hes : ∀ u ctx b, CommandsOk u → CommandsOk (endStep c.slot ctx b u) := by
          intro u ctx b h; unfold endStep; repeat' split
          · exact enterFailed_commandsOk _ _ h
          · unfold setContext; exact commandsOk_updEntry _ _ (by simp [Entry.outstanding?, Entry.active?]) h
          · exact enterFailed_commandsOk _ _ h
          · unfold setContext; exact commandsOk_updEntry _ _ (by simp [Entry.outstanding?, Entry.active?]) h
        unfold judgePage; split
        · exact enterFailed_commandsOk _ _ h2
        · split
          · apply hes
            unfold keepPage; repeat' split
            · exact hu _ _ _ (fun _ => rfl) h2
            · exact hu _ _ _ (fun _ => rfl) h2
            · exact hu _ _ _ (fun _ => rfl) h2
            · exact hu _ _ _ (fun _ => rfl) h2
            · exact hu _ _ _ (fun _ => rfl) h2
            · exact h2
          · exact hes _ _ _ h2
    · exact h
    · exact enterFailed_commandsOk _ _ h
    · exact enterFailed_commandsOk _ _ h
  · unfold deliverSettle; repeat' split
    all_goals first | with_reducible exact h | with_reducible exact enterActive_commandsOk _ _ h | with_reducible exact enterFailed_commandsOk _ _ h
  · have hsn : CommandsOk (setNextPoll c.slot s) := hact _ _ _ (fun _ => rfl) h
    unfold deliverPoll; repeat' split
    · exact h
    · unfold applyStatus
      have : CommandsOk (postAlarm c.slot ‹ActiveData›.alarmBaseline (‹StatusRecord›).alarm (clearMisses c.slot (setNextPoll c.slot s))) := commandsOk_congr (by simp) (by simp) (clearMisses_commandsOk c.slot hsn)
      refine commandsOk_updEntry _ _ ?_ this
      generalize (postAlarm _ _ _ _) = u
      unfold Entry.updActive Entry.outstanding? Entry.active?
      cases hs : (u.entry c.slot).state <;> simp [hs]
    · exact clearMisses_commandsOk _ hsn
    · exact countMiss_commandsOk _ hsn
    · exact countMiss_commandsOk _ hsn
  · unfold deliverFetch; repeat' split
    · unfold judgeMessage
      have h0 := clearMisses_commandsOk c.slot h
      revert h0; generalize clearMisses c.slot s = u; intro h0
      repeat' split
      · exact h0
      · exact oweVerdict_commandsOk _ _ _ h0
      · have : ∀ n, CommandsOk ((postGap c.slot n u).updEntry c.slot fun e => { e with lastNumber := some n }) := fun n => hu _ _ _ (fun _ => rfl) (commandsOk_congr (by simp) (by simp) h0)
        revert this; rename_i n _ _ _; intro this; have := this n
        revert this; generalize (State.updEntry _ _ _) = w; intro hw
        unfold judgeClass judgeHold judgeLateResult deferMessage rejectMalformed oweReject oweAccept
        repeat' split
        all_goals first
          | with_reducible exact hw
          | with_reducible exact post_commandsOk _ _ _ (oweVerdict_commandsOk _ _ _ hw)
          | with_reducible exact oweVerdict_commandsOk _ _ _ hw
          | with_reducible exact oweVerdict_commandsOk _ _ _ (hu _ _ _ (fun _ => rfl) hw)
          | with_reducible exact oweVerdict_commandsOk _ _ _ (completeOutstanding_commandsOk _ _ _ hw)
          | exact commandsOk_congr (s := w) rfl rfl hw
    · exact hu _ _ _ (fun _ => rfl) (clearMisses_commandsOk _ h)
    · exact clearMisses_commandsOk _ h
    · exact countMiss_commandsOk _ h
    · exact countMiss_commandsOk _ h
    · exact h
  · have hvc : ∀ u, CommandsOk u → CommandsOk (verdictCarried c.slot u) := fun u hu => commandsOk_congr (s := clearOwed c.slot u) (by simp [verdictCarried]) (by simp [verdictCarried]) (clearOwed_commandsOk _ hu)
    unfold deliverVerdict; repeat' split
    all_goals first
      | with_reducible exact h
      | with_reducible exact renegotiate_commandsOk _ _ (hvc _ (clearMisses_commandsOk _ h))
      | with_reducible exact hvc _ (clearMisses_commandsOk _ h)
      | with_reducible exact hvc _ h
      | with_reducible exact countMiss_commandsOk _ h
  · exact deliverCommand_commandsOk _ _ _ h
  · unfold deliverRelease; split
    · exact hu _ _ _ (fun _ => rfl) h
    · exact h

theorem chooseCall_commandsOk {s : State} (h : CommandsOk s) : CommandsOk (chooseCall s) := by
  unfold chooseCall
  split
  · split
    · exact h
    · rename_i w hw
      unfold takeWork; repeat' split
      all_goals first | with_reducible exact h | exact commandsOk_congr (s := s) rfl rfl h | skip
      rename_i q
      refine startCommand_commandsOk _ h (startable_reservation (q := q) ?_)
      have : ∀ w', s.nextWork = some w' → ∀ q, w' = .command q → s.startable = some q := by
        intro w' hw' q hq; subst hq
        unfold State.nextWork at hw'
        simp only [Option.orElse_eq_orElse, Option.orElse_eq_or, Option.or_eq_some_iff, State.releaseWork, State.verdictWork, State.negotiationWork, State.overdueWork, State.commandWork, State.fetchWork, State.dueWork, State.censusWork, Option.map_eq_some_iff] at hw'
        aesop
      exact this _ hw _ rfl
  all_goals exact h

theorem expireCommands_commandsOk {s : State} (h : CommandsOk s) : CommandsOk (expireCommands s) := by
  unfold expireCommands
  refine settle_commandsOk _ _ ?_
  have : ∀ (l : List (Nat × Slot)) (s : State), CommandsOk s → CommandsOk (l.foldl expireOutstanding s) := by
    intro l; induction l with
    | nil => intro s h; exact h
    | cons a l ih => intro s h; exact ih _ (completeOutstanding_commandsOk _ _ _ h)
  have := this (List.foldr insertByPlace [] s.expiredOutstanding) s h
  revert this; generalize (List.foldl _ _ _) = u; intro hu
  unfold expireInFlight; split; exact hu
  split
  · refine ⟨hu.1, ?_⟩
    have h2 := hu.2
    have ho : (markInFlight .expired u).outstandingCount = u.outstandingCount := rfl
    unfold State.reservation at *
    rw [ho]
    simpa [markInFlight] using h2
  · exact hu

theorem msTick_commandsOk {s : State} (l r : Level) (h : CommandsOk s) : CommandsOk (msTick l r s) := by
  refine ⟨by simpa [msTick, CommandEngine.tick] using h.1, ?_⟩
  have ho : (msTick l r s).outstandingCount = s.outstandingCount := by
    simp only [State.outstandingCount, msTick, Vector.toList_map, List.countP_map]
    congr 1
    funext e
    simp only [Function.comp, Entry.tick, Entry.outstanding?, Entry.active?, Entry.updActive]
    cases hs : e.state <;> simp [ActiveData.tickPoll]
  have h2 := h.2
  unfold State.reservation at *
  rw [ho]
  simpa [msTick, CommandEngine.tick] using h2

end Sys2Proof.Machine
end

