-- ==== Sys2Proof/Laws/Config.lean ====
section
/-! SUPPORT. The configuration an operation keeps: scheduler parameters, verdict timeout, link parameters and every poll
period. -/

namespace Sys2Proof.Machine

theorem pollPeriod_updEntry (i : Slot) (f : Entry → Entry) (s : State) (hf : ∀ e, (f e).pollPeriod = e.pollPeriod)
    (j : Slot) : ((s.updEntry i f).entry j).pollPeriod = (s.entry j).pollPeriod := by
  rw [entry_updEntry]
  split
  · rename_i h
    rw [hf, h]
  · rfl

@[simp] theorem updActive_pollPeriod (f : ActiveData → ActiveData) (e : Entry) :
    (e.updActive f).pollPeriod = e.pollPeriod := by
  unfold Entry.updActive
  split <;> rfl

@[simp] theorem setOutstanding_pollPeriod (o : Option Outstanding) (e : Entry) :
    (e.setOutstanding o).pollPeriod = e.pollPeriod := by
  simp [Entry.setOutstanding]

@[simp] theorem oweVerdict_sched_mscount (i : Slot) (v : Verdict) (b : Bool) (s : State) : (oweVerdict i v b s).sched.mscount = s.sched.mscount := rfl

@[simp] theorem oweVerdict_sched_missLimit (i : Slot) (v : Verdict) (b : Bool) (s : State) : (oweVerdict i v b s).sched.missLimit = s.sched.missLimit := rfl

@[simp] theorem oweVerdict_sched_censusInterval (i : Slot) (v : Verdict) (b : Bool) (s : State) : (oweVerdict i v b s).sched.censusInterval = s.sched.censusInterval := rfl

@[simp] theorem oweVerdict_pollPeriod (i : Slot) (v : Verdict) (b : Bool) (s : State) (j : Slot) :
    ((oweVerdict i v b s).entry j).pollPeriod = (s.entry j).pollPeriod := by
  rw [oweVerdict_entry]
  split <;> simp_all

@[simp] theorem clearOwed_sched_mscount (i : Slot) (s : State) : (clearOwed i s).sched.mscount = s.sched.mscount := rfl

@[simp] theorem clearOwed_sched_missLimit (i : Slot) (s : State) : (clearOwed i s).sched.missLimit = s.sched.missLimit := rfl

@[simp] theorem clearOwed_sched_censusInterval (i : Slot) (s : State) : (clearOwed i s).sched.censusInterval = s.sched.censusInterval := rfl

@[simp] theorem clearOwed_pollPeriod (i : Slot) (s : State) (j : Slot) :
    ((clearOwed i s).entry j).pollPeriod = (s.entry j).pollPeriod := by
  rw [clearOwed_entry]
  split <;> simp_all

@[simp] theorem dropDeferred_mu_timeout (h : Handle) (c : EndCause) (s : State) : (dropDeferred h c s).mu.timeout = s.mu.timeout := rfl

@[simp] theorem decideEntry_sched_mscount (d : Deferred) (x : Decision) (s : State) : (decideEntry d x s).sched.mscount = s.sched.mscount := rfl

@[simp] theorem decideEntry_sched_missLimit (d : Deferred) (x : Decision) (s : State) : (decideEntry d x s).sched.missLimit = s.sched.missLimit := rfl

@[simp] theorem decideEntry_sched_censusInterval (d : Deferred) (x : Decision) (s : State) : (decideEntry d x s).sched.censusInterval = s.sched.censusInterval := rfl

@[simp] theorem decideEntry_mu_timeout (d : Deferred) (x : Decision) (s : State) : (decideEntry d x s).mu.timeout = s.mu.timeout := rfl

@[simp] theorem decideEntry_pollPeriod (d : Deferred) (x : Decision) (s : State) (j : Slot) :
    ((decideEntry d x s).entry j).pollPeriod = (s.entry j).pollPeriod := by
  rw [decideEntry_entry]
  split <;> simp_all

@[simp] theorem enterOff_link_rate (s : State) : (enterOff s).link.rate = s.link.rate := rfl

@[simp] theorem enterOff_link_replyWindow (s : State) : (enterOff s).link.replyWindow = s.link.replyWindow := rfl

@[simp] theorem enterOff_link_retryLimit (s : State) : (enterOff s).link.retryLimit = s.link.retryLimit := rfl

@[simp] theorem enterIdle_link_rate (s : State) : (enterIdle s).link.rate = s.link.rate := rfl

@[simp] theorem enterIdle_link_replyWindow (s : State) : (enterIdle s).link.replyWindow = s.link.replyWindow := rfl

@[simp] theorem enterIdle_link_retryLimit (s : State) : (enterIdle s).link.retryLimit = s.link.retryLimit := rfl

@[simp] theorem startExchange_link_rate (s : State) : (startExchange s).link.rate = s.link.rate := rfl

@[simp] theorem startExchange_link_replyWindow (s : State) : (startExchange s).link.replyWindow = s.link.replyWindow := rfl

@[simp] theorem startExchange_link_retryLimit (s : State) : (startExchange s).link.retryLimit = s.link.retryLimit := rfl

@[simp] theorem handIn_link_rate (c : Call) (s : State) : (handIn c s).link.rate = s.link.rate := rfl

@[simp] theorem handIn_link_replyWindow (c : Call) (s : State) : (handIn c s).link.replyWindow = s.link.replyWindow := rfl

@[simp] theorem handIn_link_retryLimit (c : Call) (s : State) : (handIn c s).link.retryLimit = s.link.retryLimit := rfl

@[simp] theorem enterBroadcasting_link_rate (s : State) : (enterBroadcasting s).link.rate = s.link.rate := rfl

@[simp] theorem enterBroadcasting_link_replyWindow (s : State) : (enterBroadcasting s).link.replyWindow = s.link.replyWindow := rfl

@[simp] theorem enterBroadcasting_link_retryLimit (s : State) : (enterBroadcasting s).link.retryLimit = s.link.retryLimit := rfl

@[simp] theorem startCommand_link_rate (q : QueuedCommand) (s : State) : (startCommand q s).link.rate = s.link.rate := rfl

@[simp] theorem startCommand_link_replyWindow (q : QueuedCommand) (s : State) : (startCommand q s).link.replyWindow = s.link.replyWindow := rfl

@[simp] theorem startCommand_link_retryLimit (q : QueuedCommand) (s : State) : (startCommand q s).link.retryLimit = s.link.retryLimit := rfl

@[simp] theorem startCommand_pollPeriod (q : QueuedCommand) (s : State) (j : Slot) :
    ((startCommand q s).entry j).pollPeriod = (s.entry j).pollPeriod := by
  rw [startCommand_entry]
  split <;> simp_all

@[simp] theorem setContext_pollPeriod (i : Slot) (c : Context) (s : State) (j : Slot) :
    ((setContext i c s).entry j).pollPeriod = (s.entry j).pollPeriod :=
  pollPeriod_updEntry _ _ _ (fun e => by simp) j

@[simp] theorem clearMisses_pollPeriod (i : Slot) (s : State) (j : Slot) :
    ((clearMisses i s).entry j).pollPeriod = (s.entry j).pollPeriod :=
  pollPeriod_updEntry _ _ _ (fun e => by simp) j

@[simp] theorem setNextPoll_pollPeriod (i : Slot) (s : State) (j : Slot) :
    ((setNextPoll i s).entry j).pollPeriod = (s.entry j).pollPeriod :=
  pollPeriod_updEntry _ _ _ (fun e => by simp) j

@[simp] theorem beginGap_link_rate (s : State) : (beginGap s).link.rate = s.link.rate := rfl

@[simp] theorem beginGap_link_replyWindow (s : State) : (beginGap s).link.replyWindow = s.link.replyWindow := rfl

@[simp] theorem beginGap_link_retryLimit (s : State) : (beginGap s).link.retryLimit = s.link.retryLimit := rfl

@[simp] theorem oweRelease_pollPeriod (i : Slot) (s : State) (j : Slot) :
    ((oweRelease i s).entry j).pollPeriod = (s.entry j).pollPeriod :=
  pollPeriod_updEntry _ _ _ (fun e => by simp) j

@[simp] theorem clearCensus_pollPeriod (i : Slot) (s : State) (j : Slot) :
    ((clearCensus i s).entry j).pollPeriod = (s.entry j).pollPeriod :=
  pollPeriod_updEntry _ _ _ (fun e => by simp) j

@[simp] theorem msTick_sched_missLimit (l r : Level) (s : State) : (msTick l r s).sched.missLimit = s.sched.missLimit := rfl

@[simp] theorem msTick_sched_censusInterval (l r : Level) (s : State) : (msTick l r s).sched.censusInterval = s.sched.censusInterval := rfl

@[simp] theorem msTick_mu_timeout (l r : Level) (s : State) : (msTick l r s).mu.timeout = s.mu.timeout := rfl

@[simp] theorem msTick_link_rate (l r : Level) (s : State) : (msTick l r s).link.rate = s.link.rate := by
  unfold msTick LinkEngine.tick
  dsimp only
  split <;> rfl

@[simp] theorem msTick_link_replyWindow (l r : Level) (s : State) : (msTick l r s).link.replyWindow = s.link.replyWindow := by
  unfold msTick LinkEngine.tick
  dsimp only
  split <;> rfl

@[simp] theorem msTick_link_retryLimit (l r : Level) (s : State) : (msTick l r s).link.retryLimit = s.link.retryLimit := by
  unfold msTick LinkEngine.tick
  dsimp only
  split <;> rfl

@[simp] theorem softReset_sched_missLimit (s : State) : (softReset s).sched.missLimit = s.sched.missLimit := rfl

@[simp] theorem softReset_sched_censusInterval (s : State) : (softReset s).sched.censusInterval = s.sched.censusInterval := rfl

@[simp] theorem softReset_mu_timeout (s : State) : (softReset s).mu.timeout = s.mu.timeout := rfl

@[simp] theorem softReset_link_rate (s : State) : (softReset s).link.rate = s.link.rate := rfl

@[simp] theorem softReset_link_replyWindow (s : State) : (softReset s).link.replyWindow = s.link.replyWindow := rfl

@[simp] theorem softReset_link_retryLimit (s : State) : (softReset s).link.retryLimit = s.link.retryLimit := rfl

@[simp] theorem completeOutstanding_pollPeriod (i : Slot) (st : CompletionStatus) (l : List Byte) (s : State) (j : Slot) :
    ((completeOutstanding i st l s).entry j).pollPeriod = (s.entry j).pollPeriod := by
  unfold completeOutstanding
  repeat' split
  all_goals simp_all [pollPeriod_updEntry]

@[simp] theorem orphan_mu_timeout (i : Slot) (s : State) : (orphan i s).mu.timeout = s.mu.timeout := by
  unfold orphan
  repeat' split
  all_goals simp_all

@[simp] theorem freeDecided_mu_timeout (i : Slot) (s : State) : (freeDecided i s).mu.timeout = s.mu.timeout := by
  unfold freeDecided
  repeat' split
  all_goals simp_all

@[simp] theorem enterNegotiating_pollPeriod (i : Slot) (c : BitVec 4) (s : State) (j : Slot) :
    ((enterNegotiating i c s).entry j).pollPeriod = (s.entry j).pollPeriod := by
  simp [enterNegotiating, pollPeriod_updEntry]

@[simp] theorem renegotiate_pollPeriod (i : Slot) (c : Byte) (s : State) (j : Slot) :
    ((renegotiate i c s).entry j).pollPeriod = (s.entry j).pollPeriod := by
  simp [renegotiate, pollPeriod_updEntry]

@[simp] theorem enterActive_pollPeriod (i : Slot) (p : Profile) (s : State) (j : Slot) :
    ((enterActive i p s).entry j).pollPeriod = (s.entry j).pollPeriod := by
  simp [enterActive, pollPeriod_updEntry]

@[simp] theorem enterFailed_sched_mscount (i : Slot) (c : FaultCode) (s : State) : (enterFailed i c s).sched.mscount = s.sched.mscount := by
  simp [enterFailed]

@[simp] theorem enterFailed_sched_missLimit (i : Slot) (c : FaultCode) (s : State) : (enterFailed i c s).sched.missLimit = s.sched.missLimit := by
  simp [enterFailed]

@[simp] theorem enterFailed_sched_censusInterval (i : Slot) (c : FaultCode) (s : State) : (enterFailed i c s).sched.censusInterval = s.sched.censusInterval := by
  simp [enterFailed]

@[simp] theorem enterFailed_mu_timeout (i : Slot) (c : FaultCode) (s : State) : (enterFailed i c s).mu.timeout = s.mu.timeout := by
  simp [enterFailed]

@[simp] theorem enterFailed_pollPeriod (i : Slot) (c : FaultCode) (s : State) (j : Slot) :
    ((enterFailed i c s).entry j).pollPeriod = (s.entry j).pollPeriod := by
  simp [enterFailed, pollPeriod_updEntry]

@[simp] theorem enterLost_sched_mscount (i : Slot) (s : State) : (enterLost i s).sched.mscount = s.sched.mscount := by
  simp [enterLost]

@[simp] theorem enterLost_sched_missLimit (i : Slot) (s : State) : (enterLost i s).sched.missLimit = s.sched.missLimit := by
  simp [enterLost]

@[simp] theorem enterLost_sched_censusInterval (i : Slot) (s : State) : (enterLost i s).sched.censusInterval = s.sched.censusInterval := by
  simp [enterLost]

@[simp] theorem enterLost_mu_timeout (i : Slot) (s : State) : (enterLost i s).mu.timeout = s.mu.timeout := by
  simp [enterLost]

@[simp] theorem enterLost_pollPeriod (i : Slot) (s : State) (j : Slot) :
    ((enterLost i s).entry j).pollPeriod = (s.entry j).pollPeriod := by
  simp [enterLost, pollPeriod_updEntry]

@[simp] theorem endCommands_pollPeriod (i : Slot) (st : CompletionStatus) (s : State) (j : Slot) :
    ((endCommands i st s).entry j).pollPeriod = (s.entry j).pollPeriod := by
  unfold endCommands
  repeat' split
  all_goals simp_all

@[simp] theorem enterVacant_sched_mscount (i : Slot) (st : CompletionStatus) (s : State) : (enterVacant i st s).sched.mscount = s.sched.mscount := by
  simp [enterVacant]

@[simp] theorem enterVacant_sched_missLimit (i : Slot) (st : CompletionStatus) (s : State) : (enterVacant i st s).sched.missLimit = s.sched.missLimit := by
  simp [enterVacant]

@[simp] theorem enterVacant_sched_censusInterval (i : Slot) (st : CompletionStatus) (s : State) : (enterVacant i st s).sched.censusInterval = s.sched.censusInterval := by
  simp [enterVacant]

@[simp] theorem enterVacant_mu_timeout (i : Slot) (st : CompletionStatus) (s : State) : (enterVacant i st s).mu.timeout = s.mu.timeout := by
  simp [enterVacant]

@[simp] theorem enterVacant_pollPeriod (i : Slot) (st : CompletionStatus) (s : State) (j : Slot) :
    ((enterVacant i st s).entry j).pollPeriod = (s.entry j).pollPeriod := by
  simp [enterVacant, pollPeriod_updEntry]

@[simp] theorem restartEntry_sched_mscount (i : Slot) (s : State) : (restartEntry s i).sched.mscount = s.sched.mscount := by
  unfold restartEntry
  repeat' split
  all_goals simp_all

@[simp] theorem restartEntry_sched_missLimit (i : Slot) (s : State) : (restartEntry s i).sched.missLimit = s.sched.missLimit := by
  unfold restartEntry
  repeat' split
  all_goals simp_all

@[simp] theorem restartEntry_sched_censusInterval (i : Slot) (s : State) : (restartEntry s i).sched.censusInterval = s.sched.censusInterval := by
  unfold restartEntry
  repeat' split
  all_goals simp_all

@[simp] theorem restartEntry_mu_timeout (i : Slot) (s : State) : (restartEntry s i).mu.timeout = s.mu.timeout := by
  unfold restartEntry
  repeat' split
  all_goals simp_all

@[simp] theorem restartEntry_pollPeriod (i : Slot) (s : State) (j : Slot) :
    ((restartEntry s i).entry j).pollPeriod = (s.entry j).pollPeriod := by
  unfold restartEntry
  repeat' split
  all_goals simp_all

@[simp] theorem restartFold_sched_mscount (l : List Slot) (s : State) : (l.foldl restartEntry s).sched.mscount = s.sched.mscount := by
  induction l generalizing s with
  | nil => rfl
  | cons x xs ih => simp [ih]

@[simp] theorem restartFold_sched_missLimit (l : List Slot) (s : State) : (l.foldl restartEntry s).sched.missLimit = s.sched.missLimit := by
  induction l generalizing s with
  | nil => rfl
  | cons x xs ih => simp [ih]

@[simp] theorem restartFold_sched_censusInterval (l : List Slot) (s : State) : (l.foldl restartEntry s).sched.censusInterval = s.sched.censusInterval := by
  induction l generalizing s with
  | nil => rfl
  | cons x xs ih => simp [ih]

@[simp] theorem restartFold_mu_timeout (l : List Slot) (s : State) : (l.foldl restartEntry s).mu.timeout = s.mu.timeout := by
  induction l generalizing s with
  | nil => rfl
  | cons x xs ih => simp [ih]

@[simp] theorem restartFold_pollPeriod (l : List Slot) (s : State) (j : Slot) :
    ((l.foldl restartEntry s).entry j).pollPeriod = (s.entry j).pollPeriod := by
  induction l generalizing s with
  | nil => rfl
  | cons x xs ih => simp [ih]

@[simp] theorem restartTable_sched_mscount (s : State) : (restartTable s).sched.mscount = s.sched.mscount := by
  simp [restartTable]

@[simp] theorem restartTable_sched_missLimit (s : State) : (restartTable s).sched.missLimit = s.sched.missLimit := by
  simp [restartTable]

@[simp] theorem restartTable_sched_censusInterval (s : State) : (restartTable s).sched.censusInterval = s.sched.censusInterval := by
  simp [restartTable]

@[simp] theorem restartTable_mu_timeout (s : State) : (restartTable s).mu.timeout = s.mu.timeout := by
  simp [restartTable]

@[simp] theorem restartTable_pollPeriod (s : State) (j : Slot) :
    ((restartTable s).entry j).pollPeriod = (s.entry j).pollPeriod := by
  simp [restartTable_entry]

@[simp] theorem beginRestart_sched_mscount (s : State) : (beginRestart s).sched.mscount = s.sched.mscount := by
  simp [beginRestart]

@[simp] theorem beginRestart_sched_missLimit (s : State) : (beginRestart s).sched.missLimit = s.sched.missLimit := by
  simp [beginRestart]

@[simp] theorem beginRestart_sched_censusInterval (s : State) : (beginRestart s).sched.censusInterval = s.sched.censusInterval := by
  simp [beginRestart]

@[simp] theorem beginRestart_mu_timeout (s : State) : (beginRestart s).mu.timeout = s.mu.timeout := by
  simp [beginRestart]

@[simp] theorem beginRestart_link_rate (s : State) : (beginRestart s).link.rate = s.link.rate := by
  simp [beginRestart]

@[simp] theorem beginRestart_link_replyWindow (s : State) : (beginRestart s).link.replyWindow = s.link.replyWindow := by
  simp [beginRestart]

@[simp] theorem beginRestart_link_retryLimit (s : State) : (beginRestart s).link.retryLimit = s.link.retryLimit := by
  simp [beginRestart]

@[simp] theorem beginRestart_pollPeriod (s : State) (j : Slot) :
    ((beginRestart s).entry j).pollPeriod = (s.entry j).pollPeriod := by
  simp [beginRestart]

@[simp] theorem afterWork_sched_mscount (s : State) : (afterWork s).sched.mscount = s.sched.mscount := by
  unfold afterWork
  repeat' split
  all_goals simp_all

@[simp] theorem afterWork_sched_missLimit (s : State) : (afterWork s).sched.missLimit = s.sched.missLimit := by
  unfold afterWork
  repeat' split
  all_goals simp_all

@[simp] theorem afterWork_sched_censusInterval (s : State) : (afterWork s).sched.censusInterval = s.sched.censusInterval := by
  unfold afterWork
  repeat' split
  all_goals simp_all

@[simp] theorem afterWork_mu_timeout (s : State) : (afterWork s).mu.timeout = s.mu.timeout := by
  unfold afterWork
  repeat' split
  all_goals simp_all

@[simp] theorem afterWork_link_rate (s : State) : (afterWork s).link.rate = s.link.rate := by
  unfold afterWork
  repeat' split
  all_goals simp_all

@[simp] theorem afterWork_link_replyWindow (s : State) : (afterWork s).link.replyWindow = s.link.replyWindow := by
  unfold afterWork
  repeat' split
  all_goals simp_all

@[simp] theorem afterWork_link_retryLimit (s : State) : (afterWork s).link.retryLimit = s.link.retryLimit := by
  unfold afterWork
  repeat' split
  all_goals simp_all

@[simp] theorem afterWork_pollPeriod (s : State) (j : Slot) :
    ((afterWork s).entry j).pollPeriod = (s.entry j).pollPeriod := by
  unfold afterWork
  repeat' split
  all_goals simp_all

@[simp] theorem takeFault_link_rate (s : State) : (takeFault s).link.rate = s.link.rate := by
  simp [takeFault]

@[simp] theorem takeFault_link_replyWindow (s : State) : (takeFault s).link.replyWindow = s.link.replyWindow := by
  simp [takeFault]

@[simp] theorem takeFault_link_retryLimit (s : State) : (takeFault s).link.retryLimit = s.link.retryLimit := by
  simp [takeFault]

@[simp] theorem countMiss_sched_mscount (i : Slot) (s : State) : (countMiss i s).sched.mscount = s.sched.mscount := by
  unfold countMiss
  repeat' split
  all_goals simp_all

@[simp] theorem countMiss_sched_missLimit (i : Slot) (s : State) : (countMiss i s).sched.missLimit = s.sched.missLimit := by
  unfold countMiss
  repeat' split
  all_goals simp_all

@[simp] theorem countMiss_sched_censusInterval (i : Slot) (s : State) : (countMiss i s).sched.censusInterval = s.sched.censusInterval := by
  unfold countMiss
  repeat' split
  all_goals simp_all

@[simp] theorem countMiss_mu_timeout (i : Slot) (s : State) : (countMiss i s).mu.timeout = s.mu.timeout := by
  unfold countMiss
  repeat' split
  all_goals simp_all

@[simp] theorem countMiss_pollPeriod (i : Slot) (s : State) (j : Slot) :
    ((countMiss i s).entry j).pollPeriod = (s.entry j).pollPeriod := by
  unfold countMiss
  repeat' split
  all_goals simp_all [pollPeriod_updEntry]

@[simp] theorem clearMissesIfActive_pollPeriod (i : Slot) (s : State) (j : Slot) :
    ((clearMissesIfActive i s).entry j).pollPeriod = (s.entry j).pollPeriod := by
  unfold clearMissesIfActive
  repeat' split
  all_goals simp_all

@[simp] theorem countMissIfActive_sched_mscount (i : Slot) (s : State) : (countMissIfActive i s).sched.mscount = s.sched.mscount := by
  unfold countMissIfActive
  repeat' split
  all_goals simp_all

@[simp] theorem countMissIfActive_sched_missLimit (i : Slot) (s : State) : (countMissIfActive i s).sched.missLimit = s.sched.missLimit := by
  unfold countMissIfActive
  repeat' split
  all_goals simp_all

@[simp] theorem countMissIfActive_sched_censusInterval (i : Slot) (s : State) : (countMissIfActive i s).sched.censusInterval = s.sched.censusInterval := by
  unfold countMissIfActive
  repeat' split
  all_goals simp_all

@[simp] theorem countMissIfActive_mu_timeout (i : Slot) (s : State) : (countMissIfActive i s).mu.timeout = s.mu.timeout := by
  unfold countMissIfActive
  repeat' split
  all_goals simp_all

@[simp] theorem countMissIfActive_pollPeriod (i : Slot) (s : State) (j : Slot) :
    ((countMissIfActive i s).entry j).pollPeriod = (s.entry j).pollPeriod := by
  unfold countMissIfActive
  repeat' split
  all_goals simp_all

@[simp] theorem applyStatus_pollPeriod (i : Slot) (a : Byte) (r : StatusRecord) (s : State) (j : Slot) :
    ((applyStatus i a r s).entry j).pollPeriod = (s.entry j).pollPeriod := by
  simp [applyStatus, pollPeriod_updEntry]

@[simp] theorem deliverPoll_sched_mscount (i : Slot) (o : ExchangeOutcome) (s : State) : (deliverPoll i o s).sched.mscount = s.sched.mscount := by
  unfold deliverPoll
  repeat' split
  all_goals simp_all

@[simp] theorem deliverPoll_sched_missLimit (i : Slot) (o : ExchangeOutcome) (s : State) : (deliverPoll i o s).sched.missLimit = s.sched.missLimit := by
  unfold deliverPoll
  repeat' split
  all_goals simp_all

@[simp] theorem deliverPoll_sched_censusInterval (i : Slot) (o : ExchangeOutcome) (s : State) : (deliverPoll i o s).sched.censusInterval = s.sched.censusInterval := by
  unfold deliverPoll
  repeat' split
  all_goals simp_all

@[simp] theorem deliverPoll_mu_timeout (i : Slot) (o : ExchangeOutcome) (s : State) : (deliverPoll i o s).mu.timeout = s.mu.timeout := by
  unfold deliverPoll
  repeat' split
  all_goals simp_all

@[simp] theorem deliverPoll_pollPeriod (i : Slot) (o : ExchangeOutcome) (s : State) (j : Slot) :
    ((deliverPoll i o s).entry j).pollPeriod = (s.entry j).pollPeriod := by
  unfold deliverPoll
  repeat' split
  all_goals simp_all

@[simp] theorem endWorking_pollPeriod (i : Slot) (f : InFlight) (q : Bool) (s : State) (j : Slot) :
    ((endWorking i f q s).entry j).pollPeriod = (s.entry j).pollPeriod := by
  unfold endWorking
  repeat' split
  all_goals simp_all [pollPeriod_updEntry]

@[simp] theorem deliverCommand_sched_mscount (i : Slot) (q : Bool) (o : ExchangeOutcome) (s : State) : (deliverCommand i q o s).sched.mscount = s.sched.mscount := by
  unfold deliverCommand
  repeat' split
  all_goals simp_all

@[simp] theorem deliverCommand_sched_missLimit (i : Slot) (q : Bool) (o : ExchangeOutcome) (s : State) : (deliverCommand i q o s).sched.missLimit = s.sched.missLimit := by
  unfold deliverCommand
  repeat' split
  all_goals simp_all

@[simp] theorem deliverCommand_sched_censusInterval (i : Slot) (q : Bool) (o : ExchangeOutcome) (s : State) : (deliverCommand i q o s).sched.censusInterval = s.sched.censusInterval := by
  unfold deliverCommand
  repeat' split
  all_goals simp_all

@[simp] theorem deliverCommand_mu_timeout (i : Slot) (q : Bool) (o : ExchangeOutcome) (s : State) : (deliverCommand i q o s).mu.timeout = s.mu.timeout := by
  unfold deliverCommand
  repeat' split
  all_goals simp_all

@[simp] theorem deliverCommand_pollPeriod (i : Slot) (q : Bool) (o : ExchangeOutcome) (s : State) (j : Slot) :
    ((deliverCommand i q o s).entry j).pollPeriod = (s.entry j).pollPeriod := by
  unfold deliverCommand
  repeat' split
  all_goals simp_all

@[simp] theorem oweAccept_sched_mscount (i : Slot) (n : BitVec 4) (b : Bool) (s : State) : (oweAccept i n b s).sched.mscount = s.sched.mscount := by
  simp [oweAccept]

@[simp] theorem oweAccept_sched_missLimit (i : Slot) (n : BitVec 4) (b : Bool) (s : State) : (oweAccept i n b s).sched.missLimit = s.sched.missLimit := by
  simp [oweAccept]

@[simp] theorem oweAccept_sched_censusInterval (i : Slot) (n : BitVec 4) (b : Bool) (s : State) : (oweAccept i n b s).sched.censusInterval = s.sched.censusInterval := by
  simp [oweAccept]

@[simp] theorem oweAccept_pollPeriod (i : Slot) (n : BitVec 4) (b : Bool) (s : State) (j : Slot) :
    ((oweAccept i n b s).entry j).pollPeriod = (s.entry j).pollPeriod := by
  simp [oweAccept]

@[simp] theorem oweReject_sched_mscount (i : Slot) (n : BitVec 4) (r : Byte) (s : State) : (oweReject i n r s).sched.mscount = s.sched.mscount := by
  simp [oweReject]

@[simp] theorem oweReject_sched_missLimit (i : Slot) (n : BitVec 4) (r : Byte) (s : State) : (oweReject i n r s).sched.missLimit = s.sched.missLimit := by
  simp [oweReject]

@[simp] theorem oweReject_sched_censusInterval (i : Slot) (n : BitVec 4) (r : Byte) (s : State) : (oweReject i n r s).sched.censusInterval = s.sched.censusInterval := by
  simp [oweReject]

@[simp] theorem oweReject_pollPeriod (i : Slot) (n : BitVec 4) (r : Byte) (s : State) (j : Slot) :
    ((oweReject i n r s).entry j).pollPeriod = (s.entry j).pollPeriod := by
  simp [oweReject]

@[simp] theorem rejectMalformed_sched_mscount (i : Slot) (c : Byte) (n : BitVec 4) (s : State) : (rejectMalformed i c n s).sched.mscount = s.sched.mscount := by
  simp [rejectMalformed]

@[simp] theorem rejectMalformed_sched_missLimit (i : Slot) (c : Byte) (n : BitVec 4) (s : State) : (rejectMalformed i c n s).sched.missLimit = s.sched.missLimit := by
  simp [rejectMalformed]

@[simp] theorem rejectMalformed_sched_censusInterval (i : Slot) (c : Byte) (n : BitVec 4) (s : State) : (rejectMalformed i c n s).sched.censusInterval = s.sched.censusInterval := by
  simp [rejectMalformed]

@[simp] theorem rejectMalformed_pollPeriod (i : Slot) (c : Byte) (n : BitVec 4) (s : State) (j : Slot) :
    ((rejectMalformed i c n s).entry j).pollPeriod = (s.entry j).pollPeriod := by
  simp [rejectMalformed]

@[simp] theorem judgeHold_sched_mscount (i : Slot) (n : BitVec 4) (l : List Byte) (s : State) : (judgeHold i n l s).sched.mscount = s.sched.mscount := by
  unfold judgeHold
  repeat' split
  all_goals simp_all

@[simp] theorem judgeHold_sched_missLimit (i : Slot) (n : BitVec 4) (l : List Byte) (s : State) : (judgeHold i n l s).sched.missLimit = s.sched.missLimit := by
  unfold judgeHold
  repeat' split
  all_goals simp_all

@[simp] theorem judgeHold_sched_censusInterval (i : Slot) (n : BitVec 4) (l : List Byte) (s : State) : (judgeHold i n l s).sched.censusInterval = s.sched.censusInterval := by
  unfold judgeHold
  repeat' split
  all_goals simp_all

@[simp] theorem judgeHold_pollPeriod (i : Slot) (n : BitVec 4) (l : List Byte) (s : State) (j : Slot) :
    ((judgeHold i n l s).entry j).pollPeriod = (s.entry j).pollPeriod := by
  unfold judgeHold
  repeat' split
  all_goals simp_all [pollPeriod_updEntry]

@[simp] theorem judgeLateResult_sched_mscount (i : Slot) (n : BitVec 4) (l : List Byte) (b : Bool) (s : State) : (judgeLateResult i n l b s).sched.mscount = s.sched.mscount := by
  unfold judgeLateResult
  repeat' split
  all_goals simp_all

@[simp] theorem judgeLateResult_sched_missLimit (i : Slot) (n : BitVec 4) (l : List Byte) (b : Bool) (s : State) : (judgeLateResult i n l b s).sched.missLimit = s.sched.missLimit := by
  unfold judgeLateResult
  repeat' split
  all_goals simp_all

@[simp] theorem judgeLateResult_sched_censusInterval (i : Slot) (n : BitVec 4) (l : List Byte) (b : Bool) (s : State) : (judgeLateResult i n l b s).sched.censusInterval = s.sched.censusInterval := by
  unfold judgeLateResult
  repeat' split
  all_goals simp_all

@[simp] theorem judgeLateResult_pollPeriod (i : Slot) (n : BitVec 4) (l : List Byte) (b : Bool) (s : State) (j : Slot) :
    ((judgeLateResult i n l b s).entry j).pollPeriod = (s.entry j).pollPeriod := by
  unfold judgeLateResult
  repeat' split
  all_goals simp_all

@[simp] theorem deferMessage_mu_timeout (i : Slot) (c : Byte) (n : BitVec 4) (l : List Byte) (s : State) : (deferMessage i c n l s).mu.timeout = s.mu.timeout := by
  unfold deferMessage
  repeat' split
  all_goals simp_all

@[simp] theorem judgeClass_sched_mscount (i : Slot) (c : Byte) (n : BitVec 4) (l : List Byte) (b : Bool) (s : State) : (judgeClass i c n l b s).sched.mscount = s.sched.mscount := by
  unfold judgeClass
  repeat' split
  all_goals simp_all

@[simp] theorem judgeClass_sched_missLimit (i : Slot) (c : Byte) (n : BitVec 4) (l : List Byte) (b : Bool) (s : State) : (judgeClass i c n l b s).sched.missLimit = s.sched.missLimit := by
  unfold judgeClass
  repeat' split
  all_goals simp_all

@[simp] theorem judgeClass_sched_censusInterval (i : Slot) (c : Byte) (n : BitVec 4) (l : List Byte) (b : Bool) (s : State) : (judgeClass i c n l b s).sched.censusInterval = s.sched.censusInterval := by
  unfold judgeClass
  repeat' split
  all_goals simp_all

@[simp] theorem judgeClass_mu_timeout (i : Slot) (c : Byte) (n : BitVec 4) (l : List Byte) (b : Bool) (s : State) : (judgeClass i c n l b s).mu.timeout = s.mu.timeout := by
  unfold judgeClass
  repeat' split
  all_goals simp_all

@[simp] theorem judgeClass_pollPeriod (i : Slot) (c : Byte) (n : BitVec 4) (l : List Byte) (b : Bool) (s : State) (j : Slot) :
    ((judgeClass i c n l b s).entry j).pollPeriod = (s.entry j).pollPeriod := by
  unfold judgeClass
  repeat' split
  all_goals simp_all

@[simp] theorem judgeMessage_sched_mscount (i : Slot) (c : Byte) (n : BitVec 4) (l : List Byte) (b : Bool) (s : State) : (judgeMessage i c n l b s).sched.mscount = s.sched.mscount := by
  unfold judgeMessage
  repeat' split
  all_goals simp_all

@[simp] theorem judgeMessage_sched_missLimit (i : Slot) (c : Byte) (n : BitVec 4) (l : List Byte) (b : Bool) (s : State) : (judgeMessage i c n l b s).sched.missLimit = s.sched.missLimit := by
  unfold judgeMessage
  repeat' split
  all_goals simp_all

@[simp] theorem judgeMessage_sched_censusInterval (i : Slot) (c : Byte) (n : BitVec 4) (l : List Byte) (b : Bool) (s : State) : (judgeMessage i c n l b s).sched.censusInterval = s.sched.censusInterval := by
  unfold judgeMessage
  repeat' split
  all_goals simp_all

@[simp] theorem judgeMessage_mu_timeout (i : Slot) (c : Byte) (n : BitVec 4) (l : List Byte) (b : Bool) (s : State) : (judgeMessage i c n l b s).mu.timeout = s.mu.timeout := by
  unfold judgeMessage
  repeat' split
  all_goals simp_all

@[simp] theorem judgeMessage_pollPeriod (i : Slot) (c : Byte) (n : BitVec 4) (l : List Byte) (b : Bool) (s : State) (j : Slot) :
    ((judgeMessage i c n l b s).entry j).pollPeriod = (s.entry j).pollPeriod := by
  unfold judgeMessage
  repeat' split
  all_goals simp_all [pollPeriod_updEntry]

@[simp] theorem deliverFetch_sched_mscount (i : Slot) (o : ExchangeOutcome) (s : State) : (deliverFetch i o s).sched.mscount = s.sched.mscount := by
  unfold deliverFetch
  repeat' split
  all_goals simp_all

@[simp] theorem deliverFetch_sched_missLimit (i : Slot) (o : ExchangeOutcome) (s : State) : (deliverFetch i o s).sched.missLimit = s.sched.missLimit := by
  unfold deliverFetch
  repeat' split
  all_goals simp_all

@[simp] theorem deliverFetch_sched_censusInterval (i : Slot) (o : ExchangeOutcome) (s : State) : (deliverFetch i o s).sched.censusInterval = s.sched.censusInterval := by
  unfold deliverFetch
  repeat' split
  all_goals simp_all

@[simp] theorem deliverFetch_mu_timeout (i : Slot) (o : ExchangeOutcome) (s : State) : (deliverFetch i o s).mu.timeout = s.mu.timeout := by
  unfold deliverFetch
  repeat' split
  all_goals simp_all

@[simp] theorem deliverFetch_pollPeriod (i : Slot) (o : ExchangeOutcome) (s : State) (j : Slot) :
    ((deliverFetch i o s).entry j).pollPeriod = (s.entry j).pollPeriod := by
  unfold deliverFetch
  repeat' split
  all_goals simp_all [pollPeriod_updEntry]

@[simp] theorem verdictCarried_sched_mscount (i : Slot) (s : State) : (verdictCarried i s).sched.mscount = s.sched.mscount := by
  simp [verdictCarried]

@[simp] theorem verdictCarried_sched_missLimit (i : Slot) (s : State) : (verdictCarried i s).sched.missLimit = s.sched.missLimit := by
  simp [verdictCarried]

@[simp] theorem verdictCarried_sched_censusInterval (i : Slot) (s : State) : (verdictCarried i s).sched.censusInterval = s.sched.censusInterval := by
  simp [verdictCarried]

@[simp] theorem verdictCarried_mu_timeout (i : Slot) (s : State) : (verdictCarried i s).mu.timeout = s.mu.timeout := by
  simp [verdictCarried]

@[simp] theorem verdictCarried_pollPeriod (i : Slot) (s : State) (j : Slot) :
    ((verdictCarried i s).entry j).pollPeriod = (s.entry j).pollPeriod := by
  simp [verdictCarried]

@[simp] theorem deliverVerdict_sched_mscount (i : Slot) (o : ExchangeOutcome) (s : State) : (deliverVerdict i o s).sched.mscount = s.sched.mscount := by
  unfold deliverVerdict
  repeat' split
  all_goals simp_all

@[simp] theorem deliverVerdict_sched_missLimit (i : Slot) (o : ExchangeOutcome) (s : State) : (deliverVerdict i o s).sched.missLimit = s.sched.missLimit := by
  unfold deliverVerdict
  repeat' split
  all_goals simp_all

@[simp] theorem deliverVerdict_sched_censusInterval (i : Slot) (o : ExchangeOutcome) (s : State) : (deliverVerdict i o s).sched.censusInterval = s.sched.censusInterval := by
  unfold deliverVerdict
  repeat' split
  all_goals simp_all

@[simp] theorem deliverVerdict_mu_timeout (i : Slot) (o : ExchangeOutcome) (s : State) : (deliverVerdict i o s).mu.timeout = s.mu.timeout := by
  unfold deliverVerdict
  repeat' split
  all_goals simp_all

@[simp] theorem deliverVerdict_pollPeriod (i : Slot) (o : ExchangeOutcome) (s : State) (j : Slot) :
    ((deliverVerdict i o s).entry j).pollPeriod = (s.entry j).pollPeriod := by
  unfold deliverVerdict
  repeat' split
  all_goals simp_all

@[simp] theorem timeOut_sched_mscount (d : Deferred) (s : State) : (timeOut s d).sched.mscount = s.sched.mscount := by
  simp [timeOut]

@[simp] theorem timeOut_sched_missLimit (d : Deferred) (s : State) : (timeOut s d).sched.missLimit = s.sched.missLimit := by
  simp [timeOut]

@[simp] theorem timeOut_sched_censusInterval (d : Deferred) (s : State) : (timeOut s d).sched.censusInterval = s.sched.censusInterval := by
  simp [timeOut]

@[simp] theorem timeOut_mu_timeout (d : Deferred) (s : State) : (timeOut s d).mu.timeout = s.mu.timeout := by
  simp [timeOut]

@[simp] theorem timeOut_pollPeriod (d : Deferred) (s : State) (j : Slot) :
    ((timeOut s d).entry j).pollPeriod = (s.entry j).pollPeriod := by
  simp [timeOut]

@[simp] theorem timeOutFold_sched_mscount (l : List Deferred) (s : State) : (l.foldl timeOut s).sched.mscount = s.sched.mscount := by
  induction l generalizing s with
  | nil => rfl
  | cons x xs ih => simp [ih]

@[simp] theorem timeOutFold_sched_missLimit (l : List Deferred) (s : State) : (l.foldl timeOut s).sched.missLimit = s.sched.missLimit := by
  induction l generalizing s with
  | nil => rfl
  | cons x xs ih => simp [ih]

@[simp] theorem timeOutFold_sched_censusInterval (l : List Deferred) (s : State) : (l.foldl timeOut s).sched.censusInterval = s.sched.censusInterval := by
  induction l generalizing s with
  | nil => rfl
  | cons x xs ih => simp [ih]

@[simp] theorem timeOutFold_mu_timeout (l : List Deferred) (s : State) : (l.foldl timeOut s).mu.timeout = s.mu.timeout := by
  induction l generalizing s with
  | nil => rfl
  | cons x xs ih => simp [ih]

@[simp] theorem timeOutFold_pollPeriod (l : List Deferred) (s : State) (j : Slot) :
    ((l.foldl timeOut s).entry j).pollPeriod = (s.entry j).pollPeriod := by
  induction l generalizing s with
  | nil => rfl
  | cons x xs ih => simp [ih]

@[simp] theorem timeOutAll_sched_mscount (s : State) : (timeOutAll s).sched.mscount = s.sched.mscount := by
  simp [timeOutAll]

@[simp] theorem timeOutAll_sched_missLimit (s : State) : (timeOutAll s).sched.missLimit = s.sched.missLimit := by
  simp [timeOutAll]

@[simp] theorem timeOutAll_sched_censusInterval (s : State) : (timeOutAll s).sched.censusInterval = s.sched.censusInterval := by
  simp [timeOutAll]

@[simp] theorem timeOutAll_mu_timeout (s : State) : (timeOutAll s).mu.timeout = s.mu.timeout := by
  simp [timeOutAll]

@[simp] theorem timeOutAll_pollPeriod (s : State) (j : Slot) :
    ((timeOutAll s).entry j).pollPeriod = (s.entry j).pollPeriod := by
  simp [timeOutAll]

@[simp] theorem keepPage_pollPeriod (i : Slot) (p : Page) (b : Bool) (s : State) (j : Slot) :
    ((keepPage i p b s).entry j).pollPeriod = (s.entry j).pollPeriod := by
  unfold keepPage
  repeat' split
  all_goals simp_all [pollPeriod_updEntry]

@[simp] theorem endStep_sched_mscount (i : Slot) (c : Context) (b : Bool) (s : State) : (endStep i c b s).sched.mscount = s.sched.mscount := by
  unfold endStep
  repeat' split
  all_goals simp_all

@[simp] theorem endStep_sched_missLimit (i : Slot) (c : Context) (b : Bool) (s : State) : (endStep i c b s).sched.missLimit = s.sched.missLimit := by
  unfold endStep
  repeat' split
  all_goals simp_all

@[simp] theorem endStep_sched_censusInterval (i : Slot) (c : Context) (b : Bool) (s : State) : (endStep i c b s).sched.censusInterval = s.sched.censusInterval := by
  unfold endStep
  repeat' split
  all_goals simp_all

@[simp] theorem endStep_mu_timeout (i : Slot) (c : Context) (b : Bool) (s : State) : (endStep i c b s).mu.timeout = s.mu.timeout := by
  unfold endStep
  repeat' split
  all_goals simp_all

@[simp] theorem endStep_pollPeriod (i : Slot) (c : Context) (b : Bool) (s : State) (j : Slot) :
    ((endStep i c b s).entry j).pollPeriod = (s.entry j).pollPeriod := by
  unfold endStep
  repeat' split
  all_goals simp_all

@[simp] theorem judgePage_sched_mscount (i : Slot) (c : Context) (p : Page) (b : Bool) (s : State) : (judgePage i c p b s).sched.mscount = s.sched.mscount := by
  unfold judgePage
  repeat' split
  all_goals simp_all

@[simp] theorem judgePage_sched_missLimit (i : Slot) (c : Context) (p : Page) (b : Bool) (s : State) : (judgePage i c p b s).sched.missLimit = s.sched.missLimit := by
  unfold judgePage
  repeat' split
  all_goals simp_all

@[simp] theorem judgePage_sched_censusInterval (i : Slot) (c : Context) (p : Page) (b : Bool) (s : State) : (judgePage i c p b s).sched.censusInterval = s.sched.censusInterval := by
  unfold judgePage
  repeat' split
  all_goals simp_all

@[simp] theorem judgePage_mu_timeout (i : Slot) (c : Context) (p : Page) (b : Bool) (s : State) : (judgePage i c p b s).mu.timeout = s.mu.timeout := by
  unfold judgePage
  repeat' split
  all_goals simp_all

@[simp] theorem judgePage_pollPeriod (i : Slot) (c : Context) (p : Page) (b : Bool) (s : State) (j : Slot) :
    ((judgePage i c p b s).entry j).pollPeriod = (s.entry j).pollPeriod := by
  unfold judgePage
  repeat' split
  all_goals simp_all

@[simp] theorem pageStep_sched_mscount (i : Slot) (c : Context) (p : Page) (s : State) : (pageStep i c p s).sched.mscount = s.sched.mscount := by
  unfold pageStep
  repeat' split
  all_goals simp_all

@[simp] theorem pageStep_sched_missLimit (i : Slot) (c : Context) (p : Page) (s : State) : (pageStep i c p s).sched.missLimit = s.sched.missLimit := by
  unfold pageStep
  repeat' split
  all_goals simp_all

@[simp] theorem pageStep_sched_censusInterval (i : Slot) (c : Context) (p : Page) (s : State) : (pageStep i c p s).sched.censusInterval = s.sched.censusInterval := by
  unfold pageStep
  repeat' split
  all_goals simp_all

@[simp] theorem pageStep_mu_timeout (i : Slot) (c : Context) (p : Page) (s : State) : (pageStep i c p s).mu.timeout = s.mu.timeout := by
  unfold pageStep
  repeat' split
  all_goals simp_all

@[simp] theorem pageStep_pollPeriod (i : Slot) (c : Context) (p : Page) (s : State) (j : Slot) :
    ((pageStep i c p s).entry j).pollPeriod = (s.entry j).pollPeriod := by
  unfold pageStep
  repeat' split
  all_goals simp_all [pollPeriod_updEntry]

@[simp] theorem deliverPage_sched_mscount (i : Slot) (o : ExchangeOutcome) (s : State) : (deliverPage i o s).sched.mscount = s.sched.mscount := by
  unfold deliverPage
  repeat' split
  all_goals simp_all

@[simp] theorem deliverPage_sched_missLimit (i : Slot) (o : ExchangeOutcome) (s : State) : (deliverPage i o s).sched.missLimit = s.sched.missLimit := by
  unfold deliverPage
  repeat' split
  all_goals simp_all

@[simp] theorem deliverPage_sched_censusInterval (i : Slot) (o : ExchangeOutcome) (s : State) : (deliverPage i o s).sched.censusInterval = s.sched.censusInterval := by
  unfold deliverPage
  repeat' split
  all_goals simp_all

@[simp] theorem deliverPage_mu_timeout (i : Slot) (o : ExchangeOutcome) (s : State) : (deliverPage i o s).mu.timeout = s.mu.timeout := by
  unfold deliverPage
  repeat' split
  all_goals simp_all

@[simp] theorem deliverPage_pollPeriod (i : Slot) (o : ExchangeOutcome) (s : State) (j : Slot) :
    ((deliverPage i o s).entry j).pollPeriod = (s.entry j).pollPeriod := by
  unfold deliverPage
  repeat' split
  all_goals simp_all

@[simp] theorem deliverSettle_sched_mscount (i : Slot) (o : ExchangeOutcome) (s : State) : (deliverSettle i o s).sched.mscount = s.sched.mscount := by
  unfold deliverSettle
  repeat' split
  all_goals simp_all

@[simp] theorem deliverSettle_sched_missLimit (i : Slot) (o : ExchangeOutcome) (s : State) : (deliverSettle i o s).sched.missLimit = s.sched.missLimit := by
  unfold deliverSettle
  repeat' split
  all_goals simp_all

@[simp] theorem deliverSettle_sched_censusInterval (i : Slot) (o : ExchangeOutcome) (s : State) : (deliverSettle i o s).sched.censusInterval = s.sched.censusInterval := by
  unfold deliverSettle
  repeat' split
  all_goals simp_all

@[simp] theorem deliverSettle_mu_timeout (i : Slot) (o : ExchangeOutcome) (s : State) : (deliverSettle i o s).mu.timeout = s.mu.timeout := by
  unfold deliverSettle
  repeat' split
  all_goals simp_all

@[simp] theorem deliverSettle_pollPeriod (i : Slot) (o : ExchangeOutcome) (s : State) (j : Slot) :
    ((deliverSettle i o s).entry j).pollPeriod = (s.entry j).pollPeriod := by
  unfold deliverSettle
  repeat' split
  all_goals simp_all

@[simp] theorem stopCensus_pollPeriod (i : Slot) (k : NoticeKind) (d : Byte) (s : State) (j : Slot) :
    ((stopCensus i k d s).entry j).pollPeriod = (s.entry j).pollPeriod := by
  simp [stopCensus, pollPeriod_updEntry]

@[simp] theorem deliverCensus_pollPeriod (i : Slot) (o : ExchangeOutcome) (s : State) (j : Slot) :
    ((deliverCensus i o s).entry j).pollPeriod = (s.entry j).pollPeriod := by
  unfold deliverCensus
  repeat' split
  all_goals simp_all

@[simp] theorem deliverRelease_pollPeriod (i : Slot) (s : State) (j : Slot) :
    ((deliverRelease i s).entry j).pollPeriod = (s.entry j).pollPeriod := by
  unfold deliverRelease
  repeat' split
  all_goals simp_all [pollPeriod_updEntry]

@[simp] theorem deliver_sched_mscount (c : Call) (o : ExchangeOutcome) (s : State) : (deliver c o s).sched.mscount = s.sched.mscount := by
  unfold deliver
  repeat' split
  all_goals simp_all

@[simp] theorem deliver_sched_missLimit (c : Call) (o : ExchangeOutcome) (s : State) : (deliver c o s).sched.missLimit = s.sched.missLimit := by
  unfold deliver
  repeat' split
  all_goals simp_all

@[simp] theorem deliver_sched_censusInterval (c : Call) (o : ExchangeOutcome) (s : State) : (deliver c o s).sched.censusInterval = s.sched.censusInterval := by
  unfold deliver
  repeat' split
  all_goals simp_all

@[simp] theorem deliver_mu_timeout (c : Call) (o : ExchangeOutcome) (s : State) : (deliver c o s).mu.timeout = s.mu.timeout := by
  unfold deliver
  repeat' split
  all_goals simp_all

@[simp] theorem deliver_pollPeriod (c : Call) (o : ExchangeOutcome) (s : State) (j : Slot) :
    ((deliver c o s).entry j).pollPeriod = (s.entry j).pollPeriod := by
  unfold deliver
  repeat' split
  all_goals simp_all

@[simp] theorem finishExchange_sched_mscount (s : State) : (finishExchange s).sched.mscount = s.sched.mscount := by
  simp [finishExchange]

@[simp] theorem finishExchange_sched_missLimit (s : State) : (finishExchange s).sched.missLimit = s.sched.missLimit := by
  simp [finishExchange]

@[simp] theorem finishExchange_sched_censusInterval (s : State) : (finishExchange s).sched.censusInterval = s.sched.censusInterval := by
  simp [finishExchange]

@[simp] theorem finishExchange_mu_timeout (s : State) : (finishExchange s).mu.timeout = s.mu.timeout := by
  simp [finishExchange]

@[simp] theorem finishExchange_link_rate (s : State) : (finishExchange s).link.rate = s.link.rate := by
  simp [finishExchange]

@[simp] theorem finishExchange_link_replyWindow (s : State) : (finishExchange s).link.replyWindow = s.link.replyWindow := by
  simp [finishExchange]

@[simp] theorem finishExchange_link_retryLimit (s : State) : (finishExchange s).link.retryLimit = s.link.retryLimit := by
  simp [finishExchange]

@[simp] theorem finishExchange_pollPeriod (s : State) (j : Slot) :
    ((finishExchange s).entry j).pollPeriod = (s.entry j).pollPeriod := by
  simp [finishExchange]

@[simp] theorem endAttempt_sched_mscount (o : ExchangeOutcome) (s : State) : (endAttempt o s).sched.mscount = s.sched.mscount := by
  unfold endAttempt
  repeat' split
  all_goals simp_all

@[simp] theorem endAttempt_sched_missLimit (o : ExchangeOutcome) (s : State) : (endAttempt o s).sched.missLimit = s.sched.missLimit := by
  unfold endAttempt
  repeat' split
  all_goals simp_all

@[simp] theorem endAttempt_sched_censusInterval (o : ExchangeOutcome) (s : State) : (endAttempt o s).sched.censusInterval = s.sched.censusInterval := by
  unfold endAttempt
  repeat' split
  all_goals simp_all

@[simp] theorem endAttempt_mu_timeout (o : ExchangeOutcome) (s : State) : (endAttempt o s).mu.timeout = s.mu.timeout := by
  unfold endAttempt
  repeat' split
  all_goals simp_all

@[simp] theorem endAttempt_link_rate (o : ExchangeOutcome) (s : State) : (endAttempt o s).link.rate = s.link.rate := by
  unfold endAttempt
  repeat' split
  all_goals simp_all

@[simp] theorem endAttempt_link_replyWindow (o : ExchangeOutcome) (s : State) : (endAttempt o s).link.replyWindow = s.link.replyWindow := by
  unfold endAttempt
  repeat' split
  all_goals simp_all

@[simp] theorem endAttempt_link_retryLimit (o : ExchangeOutcome) (s : State) : (endAttempt o s).link.retryLimit = s.link.retryLimit := by
  unfold endAttempt
  repeat' split
  all_goals simp_all

@[simp] theorem endAttempt_pollPeriod (o : ExchangeOutcome) (s : State) (j : Slot) :
    ((endAttempt o s).entry j).pollPeriod = (s.entry j).pollPeriod := by
  unfold endAttempt
  repeat' split
  all_goals simp_all

@[simp] theorem takeWork_sched_mscount (w : Work) (s : State) : (takeWork w s).sched.mscount = s.sched.mscount := by
  unfold takeWork
  repeat' split
  all_goals simp_all

@[simp] theorem takeWork_sched_missLimit (w : Work) (s : State) : (takeWork w s).sched.missLimit = s.sched.missLimit := by
  unfold takeWork
  repeat' split
  all_goals simp_all

@[simp] theorem takeWork_sched_censusInterval (w : Work) (s : State) : (takeWork w s).sched.censusInterval = s.sched.censusInterval := by
  unfold takeWork
  repeat' split
  all_goals simp_all

@[simp] theorem takeWork_link_rate (w : Work) (s : State) : (takeWork w s).link.rate = s.link.rate := by
  unfold takeWork
  repeat' split
  all_goals simp_all

@[simp] theorem takeWork_link_replyWindow (w : Work) (s : State) : (takeWork w s).link.replyWindow = s.link.replyWindow := by
  unfold takeWork
  repeat' split
  all_goals simp_all

@[simp] theorem takeWork_link_retryLimit (w : Work) (s : State) : (takeWork w s).link.retryLimit = s.link.retryLimit := by
  unfold takeWork
  repeat' split
  all_goals simp_all

@[simp] theorem takeWork_pollPeriod (w : Work) (s : State) (j : Slot) :
    ((takeWork w s).entry j).pollPeriod = (s.entry j).pollPeriod := by
  unfold takeWork
  repeat' split
  all_goals first | rfl | exact startCommand_pollPeriod _ _ _

@[simp] theorem chooseCall_sched_mscount (s : State) : (chooseCall s).sched.mscount = s.sched.mscount := by
  unfold chooseCall
  repeat' split
  all_goals simp_all

@[simp] theorem chooseCall_sched_missLimit (s : State) : (chooseCall s).sched.missLimit = s.sched.missLimit := by
  unfold chooseCall
  repeat' split
  all_goals simp_all

@[simp] theorem chooseCall_sched_censusInterval (s : State) : (chooseCall s).sched.censusInterval = s.sched.censusInterval := by
  unfold chooseCall
  repeat' split
  all_goals simp_all

@[simp] theorem chooseCall_link_rate (s : State) : (chooseCall s).link.rate = s.link.rate := by
  unfold chooseCall
  repeat' split
  all_goals simp_all

@[simp] theorem chooseCall_link_replyWindow (s : State) : (chooseCall s).link.replyWindow = s.link.replyWindow := by
  unfold chooseCall
  repeat' split
  all_goals simp_all

@[simp] theorem chooseCall_link_retryLimit (s : State) : (chooseCall s).link.retryLimit = s.link.retryLimit := by
  unfold chooseCall
  repeat' split
  all_goals simp_all

@[simp] theorem chooseCall_pollPeriod (s : State) (j : Slot) :
    ((chooseCall s).entry j).pollPeriod = (s.entry j).pollPeriod := by
  unfold chooseCall
  repeat' split
  all_goals simp_all

@[simp] theorem expireFold_pollPeriod (l : List (Nat × Slot)) (s : State) (j : Slot) :
    ((l.foldl expireOutstanding s).entry j).pollPeriod = (s.entry j).pollPeriod := by
  induction l generalizing s with
  | nil => rfl
  | cons x xs ih => simp [ih, expireOutstanding]

@[simp] theorem expireCommands_pollPeriod (s : State) (j : Slot) :
    ((expireCommands s).entry j).pollPeriod = (s.entry j).pollPeriod := by
  simp [expireCommands]

end Sys2Proof.Machine
end

