-- ==== Sys2Proof/Laws/Deferred.lean ====
section
/-! SUPPORT. The deferred queue: every shared operation but an allocation leaves a part of it, in its order, with
decisions at most added, and an allocation keeps its slots and handles apart. -/

namespace Sys2Proof.Machine

/-- What of a deferred entry no decision changes. -/
def Deferred.key (d : Deferred) : Handle × Slot × Nat × Bool := (d.handle, d.slot, d.age, d.timeoutReached)

/-- The second queue with entries taken out and decisions added gives the first. -/
def PartOf (q p : List Deferred) : Prop := (q.map Deferred.key).Sublist (p.map Deferred.key)

theorem PartOf.refl (q : List Deferred) : PartOf q q := List.Sublist.refl _

theorem PartOf.trans {a b c : List Deferred} (h : PartOf a b) (k : PartOf b c) : PartOf a c := List.Sublist.trans h k

theorem partOf_filter (p : Deferred → Bool) (q : List Deferred) : PartOf (q.filter p) q :=
  (List.filter_sublist).map _

theorem partOf_map (f : Deferred → Deferred) (hf : ∀ d, (f d).key = d.key) (q : List Deferred) : PartOf (q.map f) q := by
  have : (q.map f).map Deferred.key = q.map Deferred.key := by
    rw [List.map_map]
    exact List.map_congr_left fun d _ => hf d
  unfold PartOf
  rw [this]

/-- The bounds on the deferred queue alone. -/
def QueueOk (q : List Deferred) : Prop :=
  (q.map Deferred.handle).Nodup ∧ (q.map Deferred.slot).Nodup ∧
    ∀ d ∈ q, d.age ≤ 2550 ∧ (d.timeoutReached = false → d.age < 2550)

theorem queueOk_of_partOf {q p : List Deferred} (h : PartOf q p) (hp : QueueOk p) : QueueOk q := by
  obtain ⟨h1, h2, h3⟩ := hp
  have e1 : ∀ l : List Deferred, l.map Deferred.handle = (l.map Deferred.key).map Prod.fst := fun l => by
    simp [Deferred.key, Function.comp_def]
  have e2 : ∀ l : List Deferred, l.map Deferred.slot = (l.map Deferred.key).map fun k => k.2.1 := fun l => by
    simp [Deferred.key, Function.comp_def]
  refine ⟨?_, ?_, ?_⟩
  · rw [e1] at *
    exact List.Sublist.nodup (h.map _) h1
  · rw [e2] at *
    exact List.Sublist.nodup (h.map _) h2
  · intro d hd
    have hm := h.subset (List.mem_map_of_mem (f := Deferred.key) hd)
    obtain ⟨d', hd', he⟩ := List.mem_map.mp hm
    have := h3 d' hd'
    simp only [Deferred.key, Prod.mk.injEq] at he
    obtain ⟨_, _, ha, ht⟩ := he
    rw [← ha, ← ht]
    exact this

theorem find_slot_of_partOf {q p : List Deferred} (h : PartOf q p) (i : Slot)
    (hp : (p.find? fun d => d.slot == i) = none) : (q.find? fun d => d.slot == i) = none := by
  rw [List.find?_eq_none] at *
  intro d hd
  have hm := h.subset (List.mem_map_of_mem (f := Deferred.key) hd)
  obtain ⟨d', hd', he⟩ := List.mem_map.mp hm
  have := hp d' hd'
  simp only [Deferred.key, Prod.mk.injEq] at he
  rw [← he.2.1]
  exact this

/-! ### Operations that take entries out or decide them -/

theorem orphan_part (i : Slot) (s : State) : PartOf (orphan i s).mu.queue s.mu.queue := by
  unfold orphan
  split
  · exact PartOf.refl _
  · simpa using partOf_filter _ _

theorem freeDecided_part (i : Slot) (s : State) : PartOf (freeDecided i s).mu.queue s.mu.queue := by
  unfold freeDecided
  repeat' split
  · exact PartOf.refl _
  · exact PartOf.refl _
  · exact partOf_filter _ _

theorem decideEntry_part (d : Deferred) (x : Decision) (s : State) :
    PartOf (decideEntry d x s).mu.queue s.mu.queue := by
  refine partOf_map _ ?_ s.mu.queue
  intro y
  split <;> rfl

theorem enterFailed_part (i : Slot) (c : FaultCode) (s : State) : PartOf (enterFailed i c s).mu.queue s.mu.queue := by
  have h := orphan_part i (clearOwed i ((postPagesDropped i s).updEntry i fun e =>
    { e with state := .failed c, fetchWanted := false }))
  simpa [enterFailed] using h

theorem enterLost_part (i : Slot) (s : State) : PartOf (enterLost i s).mu.queue s.mu.queue := by
  unfold enterLost
  refine (orphan_part i _).trans ?_
  simp [PartOf]

theorem enterVacant_part (i : Slot) (st : CompletionStatus) (s : State) :
    PartOf (enterVacant i st s).mu.queue s.mu.queue := by
  unfold enterVacant
  refine (orphan_part i _).trans ?_
  simp [PartOf]

theorem restartFold_part (l : List Slot) (s : State) : PartOf (l.foldl restartEntry s).mu.queue s.mu.queue := by
  induction l generalizing s with
  | nil => exact PartOf.refl _
  | cons i l ih =>
    refine (ih _).trans ?_
    unfold restartEntry
    split
    · exact PartOf.refl _
    · exact enterVacant_part i _ s

theorem restartTable_part (s : State) : PartOf (restartTable s).mu.queue s.mu.queue := by
  have h := restartFold_part allSlots s
  unfold restartTable
  generalize allSlots.foldl restartEntry s = t at h ⊢
  simpa using h

theorem afterWork_part (s : State) : PartOf (afterWork s).mu.queue s.mu.queue := by
  unfold afterWork beginRestart
  repeat' split
  · simpa using restartTable_part (s.setLink { s.link with restartPending := false })
  · exact PartOf.refl _
  · exact PartOf.refl _

theorem countMiss_part (i : Slot) (s : State) : PartOf (countMiss i s).mu.queue s.mu.queue := by
  unfold countMiss
  split
  · exact enterLost_part i _
  · exact PartOf.refl _

theorem countMissIfActive_part (i : Slot) (s : State) : PartOf (countMissIfActive i s).mu.queue s.mu.queue := by
  unfold countMissIfActive
  split
  · exact countMiss_part i s
  · exact PartOf.refl _

theorem verdictCarried_part (i : Slot) (s : State) : PartOf (verdictCarried i s).mu.queue s.mu.queue :=
  freeDecided_part i (clearOwed i s)

theorem endStep_part (i : Slot) (c : Context) (b : Bool) (s : State) : PartOf (endStep i c b s).mu.queue s.mu.queue := by
  unfold endStep
  repeat' split
  · exact enterFailed_part _ _ _
  · exact PartOf.refl _
  · exact enterFailed_part _ _ _
  · exact PartOf.refl _

theorem judgePage_part (i : Slot) (c : Context) (p : Page) (b : Bool) (s : State) :
    PartOf (judgePage i c p b s).mu.queue s.mu.queue := by
  unfold judgePage
  split
  · exact enterFailed_part _ _ _
  · split
    · refine (endStep_part _ _ _ _).trans ?_
      simp [PartOf]
    · exact endStep_part _ _ _ _

theorem pageStep_part (i : Slot) (c : Context) (p : Page) (s : State) :
    PartOf (pageStep i c p s).mu.queue s.mu.queue := by
  unfold pageStep
  dsimp only
  split
  · exact enterFailed_part _ _ _
  · exact judgePage_part _ _ _ _ _

/-! ### Allocation -/

theorem freeHandle_free {s : State} {h : Handle} (hf : s.freeHandle = some h) :
    ∀ d ∈ s.mu.queue, d.handle ≠ h := by
  have := List.find?_some hf
  unfold State.deferredAt at this
  rw [Option.isNone_iff_eq_none, List.find?_eq_none] at this
  intro d hd he
  exact this d hd (by simp [he])

theorem deferMessage_queueOk (i : Slot) (c : Byte) (n : BitVec 4) (l : List Byte) {s : State}
    (h : QueueOk s.mu.queue) (hi : s.deferredOf i = none) : QueueOk (deferMessage i c n l s).mu.queue := by
  unfold deferMessage
  split
  · exact h
  · rename_i k hk
    have hfree := freeHandle_free hk
    unfold State.deferredOf at hi
    rw [List.find?_eq_none] at hi
    obtain ⟨h1, h2, h3⟩ := h
    refine ⟨?_, ?_, ?_⟩
    · simp only [List.map_append, List.map_cons, List.map_nil]
      rw [List.nodup_append]
      refine ⟨h1, by simp, ?_⟩
      intro a ha b hb
      obtain ⟨d, hd, rfl⟩ := List.mem_map.mp ha
      simp at hb
      subst hb
      exact hfree d hd
    · simp only [List.map_append, List.map_cons, List.map_nil]
      rw [List.nodup_append]
      refine ⟨h2, by simp, ?_⟩
      intro a ha b hb
      obtain ⟨d, hd, rfl⟩ := List.mem_map.mp ha
      simp at hb
      subst hb
      have := hi d hd
      simpa using this
    · intro d hd
      rcases List.mem_append.mp hd with hd | hd
      · exact h3 d hd
      · simp at hd
        subst hd
        simp

/-! ### A delivery -/

theorem deliverPage_part (i : Slot) (o : ExchangeOutcome) (s : State) :
    PartOf (deliverPage i o s).mu.queue s.mu.queue := by
  unfold deliverPage
  repeat' split
  · exact PartOf.refl _
  · exact pageStep_part _ _ _ _
  · exact PartOf.refl _
  · exact enterFailed_part _ _ _
  · exact enterFailed_part _ _ _

theorem deliverSettle_part (i : Slot) (o : ExchangeOutcome) (s : State) :
    PartOf (deliverSettle i o s).mu.queue s.mu.queue := by
  unfold deliverSettle
  repeat' split
  all_goals
    first
      | with_reducible exact enterFailed_part _ _ _
      | with_reducible exact PartOf.refl _
      | simp [PartOf]

theorem deliverPoll_part (i : Slot) (o : ExchangeOutcome) (s : State) :
    PartOf (deliverPoll i o s).mu.queue s.mu.queue := by
  unfold deliverPoll
  repeat' split
  · exact PartOf.refl _
  · simp [PartOf]
  · simp [PartOf]
  · exact (countMiss_part i _).trans (by simp [PartOf])
  · exact (countMiss_part i _).trans (by simp [PartOf])

theorem deliverCommand_part (i : Slot) (q : Bool) (o : ExchangeOutcome) (s : State) :
    PartOf (deliverCommand i q o s).mu.queue s.mu.queue := by
  unfold deliverCommand
  repeat' split
  all_goals
    first
      | with_reducible exact PartOf.refl _
      | exact (countMissIfActive_part i _).trans (by simp [PartOf])
      | simp [PartOf]

theorem deliverVerdict_part (i : Slot) (o : ExchangeOutcome) (s : State) :
    PartOf (deliverVerdict i o s).mu.queue s.mu.queue := by
  unfold deliverVerdict
  repeat' split
  · refine PartOf.trans ?_ ((verdictCarried_part i (clearMisses i s)).trans (by simp [PartOf]))
    simp [PartOf]
  · exact (verdictCarried_part i (clearMisses i s)).trans (by simp [PartOf])
  · exact countMiss_part i s
  · exact countMiss_part i s
  · exact verdictCarried_part i s
  all_goals exact PartOf.refl _

theorem judgeMessage_queueOk (i : Slot) (c : Byte) (n : BitVec 4) (l : List Byte) (b : Bool) {s : State}
    (h : QueueOk s.mu.queue) (hi : s.deferredOf i = none) : QueueOk (judgeMessage i c n l b s).mu.queue := by
  unfold judgeMessage
  repeat' split
  · exact h
  · simpa using h
  · unfold judgeClass
    have hu : ((postGap i n s).updEntry i fun e => { e with lastNumber := some n }).mu = s.mu := by simp
    generalize ((postGap i n s).updEntry i fun e => { e with lastNumber := some n }) = u at hu ⊢
    split
    · refine deferMessage_queueOk _ _ _ _ (by rw [hu]; exact h) ?_
      unfold State.deferredOf at *
      rw [hu]
      exact hi
    · repeat' split
      all_goals simpa [hu] using h

theorem deliverFetch_queueOk (i : Slot) (o : ExchangeOutcome) {s : State} (h : QueueOk s.mu.queue)
    (hi : s.deferredOf i = none) : QueueOk (deliverFetch i o s).mu.queue := by
  unfold deliverFetch
  repeat' split
  · exact judgeMessage_queueOk _ _ _ _ _ h hi
  · exact h
  · exact h
  · exact queueOk_of_partOf (countMiss_part i s) h
  · exact queueOk_of_partOf (countMiss_part i s) h
  · exact h

theorem deliver_queueOk (c : Call) (o : ExchangeOutcome) {s : State} (h : QueueOk s.mu.queue)
    (hi : c.kind = .fetch → s.deferredOf c.slot = none) : QueueOk (deliver c o s).mu.queue := by
  unfold deliver
  split
  · simpa using h
  · exact queueOk_of_partOf (deliverPage_part _ _ _) h
  · exact queueOk_of_partOf (deliverSettle_part _ _ _) h
  · exact queueOk_of_partOf (deliverPoll_part _ _ _) h
  · rename_i hk
    exact deliverFetch_queueOk _ _ h (hi hk)
  · exact queueOk_of_partOf (deliverVerdict_part _ _ _) h
  · exact queueOk_of_partOf (deliverCommand_part _ _ _ _) h
  · simpa using h

/-! ### The invariant -/

theorem deferredOk_of_part {s t : State} (h : DeferredOk s) (hq : PartOf t.mu.queue s.mu.queue)
    (hc : ∀ c, t.link.current = some c → s.link.current = some c) : DeferredOk t := by
  obtain ⟨h1, h2, h3, h4⟩ := h
  obtain ⟨g1, g2, g4⟩ := queueOk_of_partOf hq ⟨h1, h2, h4⟩
  refine ⟨g1, g2, ?_, g4⟩
  rintro i ⟨c, hcur, hk, hs⟩
  exact find_slot_of_partOf hq i (h3 i ⟨c, hc c hcur, hk, hs⟩)

theorem deferredOk_of_queueOk {s : State} (h : QueueOk s.mu.queue) (hc : s.link.current = none) : DeferredOk s := by
  refine ⟨h.1, h.2.1, ?_, h.2.2⟩
  rintro i ⟨c, hcur, _⟩
  rw [hc] at hcur
  cases hcur

@[simp] theorem afterWork_current (s : State) : (afterWork s).link.current = s.link.current := by
  unfold afterWork
  repeat' split
  · simp [beginRestart, enterBroadcasting]
  · rfl
  · rfl

theorem endAttempt_deferredOk (o : ExchangeOutcome) {s : State} (h : DeferredOk s) : DeferredOk (endAttempt o s) := by
  unfold endAttempt
  split
  · exact h
  · rename_i c hc
    split
    · exact deferredOk_of_part h (PartOf.refl _) fun _ hx => hx
    · have hd := deliver_queueOk c o (s := s) ⟨h.1, h.2.1, h.2.2.2⟩ fun hk => h.2.2.1 c.slot ⟨c, hc, hk, rfl⟩
      unfold finishExchange
      refine deferredOk_of_queueOk ?_ (by simp)
      exact queueOk_of_partOf (afterWork_part _) (by simpa using hd)

theorem fetchWork_free {s : State} {i : Slot} (h : s.fetchWork = some (.fetch i)) : s.deferredOf i = none := by
  unfold State.fetchWork at h
  split at h
  · cases h
  · simp only [Option.map_eq_some_iff, Work.fetch.injEq] at h
    obtain ⟨j, hj, rfl⟩ := h
    have := List.find?_some hj
    simp only [State.fetchEligible, Bool.and_eq_true, Option.isNone_iff_eq_none] at this
    exact this.1.2

theorem nextWork_fetch {s : State} {i : Slot} (h : s.nextWork = some (.fetch i)) : s.fetchWork = some (.fetch i) := by
  simp only [State.nextWork, Option.orElse_eq_orElse, Option.orElse_eq_or, Option.or_eq_some_iff] at h
  simp only [State.releaseWork, State.verdictWork, State.negotiationWork, State.overdueWork, State.commandWork,
    State.dueWork, Option.map_eq_some_iff, reduceCtorEq, and_false, exists_false, false_or] at h
  rcases h with ⟨_, ⟨_, ⟨_, ⟨_, ⟨_, h | ⟨_, ⟨_, h⟩⟩⟩⟩⟩⟩⟩
  · exact h
  · unfold State.censusWork at h
    split at h
    · cases h
    · simp at h

theorem timeOutFold_part (l : List Deferred) (s : State) : PartOf (l.foldl timeOut s).mu.queue s.mu.queue := by
  induction l generalizing s with
  | nil => exact PartOf.refl _
  | cons d l ih =>
    refine (ih _).trans ?_
    unfold timeOut
    simpa using decideEntry_part d _ s

theorem tick_queueOk (timeout : Byte) {q : List Deferred} (h : QueueOk q) : QueueOk (q.map (Deferred.tick timeout)) := by
  obtain ⟨h1, h2, h3⟩ := h
  have k1 : ∀ d : Deferred, (d.tick timeout).handle = d.handle := fun d => by
    unfold Deferred.tick
    split <;> rfl
  have k2 : ∀ d : Deferred, (d.tick timeout).slot = d.slot := fun d => by
    unfold Deferred.tick
    split <;> rfl
  refine ⟨?_, ?_, ?_⟩
  · rw [List.map_map]
    simpa [Function.comp_def, k1] using h1
  · rw [List.map_map]
    simpa [Function.comp_def, k2] using h2
  · intro d hd
    obtain ⟨d', hd', rfl⟩ := List.mem_map.mp hd
    have := h3 d' hd'
    have hlt := timeout.isLt
    unfold Deferred.tick
    split
    · rename_i hc
      have := this.2 hc.2
      refine ⟨by show d'.age + 1 ≤ 2550; omega, ?_⟩
      intro hn
      have := of_decide_eq_false hn
      show d'.age + 1 < 2550
      omega
    · exact this

end Sys2Proof.Machine
end

