-- ==== Sys2Proof/Laws/Link.lean ====
section
/-! SUPPORT. The moves of the link engine: what they write, and that each keeps what the states of the engine hold. -/

namespace Sys2Proof.Machine

theorem linkOk_congr {s t : State} (h : t.link = s.link) (hs : LinkOk s) : LinkOk t := by
  unfold LinkOk at *
  rw [h]
  exact hs

theorem linkOk_of_link {s : State} {l : LinkEngine} (h : s.link = l) (hr : l.retryLimit.toNat ≤ 7) (hq : l.quiet ≤ 10)
    (hk : l.Ok) : LinkOk s := by
  unfold LinkOk
  rw [h]
  exact ⟨hr, hq, hk⟩

/-! ### What the moves write -/

theorem beginRestart_link (s : State) :
    (beginRestart s).link =
      { s.link with
        state := .broadcasting, activity := .transmitting, heldBroadcast := false, window := none
        restartPending := false } := by
  simp [beginRestart, enterBroadcasting]

theorem takeFault_link (s : State) :
    (takeFault s).link =
      { s.link with
        state := .fault, activity := .quiet, attempt := 0, quiet := 0, window := none
        heldBroadcast := s.link.state == .broadcasting } := by
  simp [takeFault]

theorem handIn_link (c : Call) (s : State) :
    (handIn c s).link =
      { s.link with
        current := some c, state := exchangeState s.link .sending, activity := .transmitting, attempt := 1
        window := none } := rfl

theorem exchangeIn_iff (s : State) (shown : LinkState) (act : Activity) :
    s.exchangeIn shown act = true ↔ s.link.activity = act ∧ (s.link.state = shown ∨ s.link.state = .stopping) := by
  simp [State.exchangeIn]

/-! ### The states through the moves -/

theorem beginRestart_linkOk {s : State} (hr : s.link.retryLimit.toNat ≤ 7) (hq : s.link.quiet ≤ 10)
    (hc : s.link.current = none) : LinkOk (beginRestart s) :=
  linkOk_of_link (beginRestart_link s) hr hq ⟨hc, Or.inl rfl, rfl⟩

theorem afterWork_linkOk {s : State} (hr : s.link.retryLimit.toNat ≤ 7) (hq : s.link.quiet ≤ 10)
    (hc : s.link.current = none) (hh : s.link.heldBroadcast = false) : LinkOk (afterWork s) := by
  unfold afterWork
  cases hp : s.link.restartPending with
  | true => simpa using beginRestart_linkOk hr hq hc
  | false =>
    cases hs : s.link.stopPending with
    | true => exact ⟨hr, hq, hc, rfl, hh, rfl, hp⟩
    | false => exact ⟨hr, hq, hc, rfl, hh, hs, hp⟩

theorem takeFault_linkOk {s : State} (h : LinkOk s) : LinkOk (takeFault s) := by
  refine linkOk_of_link (takeFault_link s) h.1 (Nat.zero_le _) ⟨rfl, ?_⟩
  intro hb
  have hst : s.link.state = .broadcasting := by simpa using hb
  have hk := h.2.2
  unfold LinkEngine.Ok at hk
  rw [hst] at hk
  exact hk.1

theorem startExchange_linkOk {s : State} (hr : s.link.retryLimit.toNat ≤ 7) (hq : s.link.quiet ≤ 10)
    (hc : s.link.current.isSome) (hh : s.link.heldBroadcast = false) : LinkOk (startExchange s) := by
  have hl : (startExchange s).link = { s.link with
      state := exchangeState s.link .sending, activity := .transmitting, attempt := 1, window := none } := rfl
  refine linkOk_of_link hl hr hq ?_
  cases hs : s.link.stopPending with
  | true => simp [LinkEngine.Ok, exchangeState, hs, hc, hh, LinkEngine.attemptOk]
  | false => simp [LinkEngine.Ok, exchangeState, hs, hc, hh, LinkEngine.attemptOk]

theorem handIn_linkOk (c : Call) {s : State} (h : LinkOk s) (hi : s.link.state = .idle) : LinkOk (handIn c s) := by
  have hk := h.2.2
  unfold LinkEngine.Ok at hk
  rw [hi] at hk
  exact startExchange_linkOk (s := s.setLink { s.link with current := some c }) h.1 h.2.1 rfl hk.2.2.1

theorem chooseCall_linkOk {s : State} (h : LinkOk s) : LinkOk (chooseCall s) := by
  unfold chooseCall
  split
  · rename_i hi
    split
    · exact h
    · have hw : ∀ (c : Call) (u : State), u.link = s.link → LinkOk (handIn c u) := fun c u e =>
        handIn_linkOk c (linkOk_congr e h) (by rw [e]; exact hi)
      unfold takeWork startCommand
      repeat' split
      all_goals
        first
          | with_reducible exact h
          | exact hw _ _ rfl
  all_goals exact h

/-! ### The end of an attempt -/

/-- A retry follows only while the attempt count is at most 7: the retry limit is at most 7, and a census exchange has
two attempts. -/
theorem retries_attempt {c : Call} {n : Nat} {limit : Byte} {o : ExchangeOutcome} (hl : limit.toNat ≤ 7)
    (h : retries c n limit o = true) : n ≤ 7 := by
  unfold retries at h
  split at h
  · cases h
  · split at h
    · cases h
    all_goals
      have := of_decide_eq_true h
      omega
  · split at h
    · have : n = 1 := by simpa using h
      omega
    all_goals
      have := of_decide_eq_true h
      omega

/-- What the states of an exchange say of the engine. -/
theorem exchange_fields {l : LinkEngine} (h : l.Ok)
    (hs : l.state = .sending ∨ l.state = .waiting ∨ l.state = .receiving ∨ l.state = .stopping) :
    l.current.isSome = true ∧ l.attemptOk ∧ l.heldBroadcast = false ∧ l.stopPending = (l.state == .stopping) := by
  unfold LinkEngine.Ok at h
  rcases hs with hs | hs | hs | hs <;> rw [hs] at h
  · exact ⟨h.1, h.2.2.1, h.2.2.2.1, by rw [h.2.2.2.2, hs]; rfl⟩
  · exact ⟨h.1, h.2.2.1, h.2.2.2.1, by rw [h.2.2.2.2, hs]; rfl⟩
  · exact ⟨h.1, h.2.2.1, h.2.2.2.1, by rw [h.2.2.2.2, hs]; rfl⟩
  · exact ⟨h.1, h.2.2.1, h.2.2.2.1, by rw [h.2.2.2.2, hs]; rfl⟩

theorem endAttempt_linkOk (o : ExchangeOutcome) {s : State} (h : LinkOk s)
    (hs : s.link.state = .sending ∨ s.link.state = .waiting ∨ s.link.state = .receiving ∨ s.link.state = .stopping) :
    LinkOk (endAttempt o s) := by
  obtain ⟨hc, ha, hh, hp⟩ := exchange_fields h.2.2 hs
  unfold endAttempt
  split
  · exact h
  · split
    · rename_i hr
      have hn := retries_attempt h.1 hr
      have hl : (beginGap s).link = { s.link with
          state := exchangeState s.link .sending, activity := .gap, attempt := s.link.attempt + 1
          window := none } := rfl
      refine linkOk_of_link hl h.1 h.2.1 ?_
      cases hs : s.link.stopPending with
      | true =>
        simp only [LinkEngine.Ok, exchangeState, hs, if_true]
        exact ⟨hc, Or.inl trivial, ⟨Nat.le_add_left _ _, by show s.link.attempt + 1 ≤ 8; omega⟩, hh, trivial⟩
      | false =>
        simp only [LinkEngine.Ok, exchangeState, hs, Bool.false_eq_true, if_false]
        exact ⟨hc, Or.inl trivial, ⟨Nat.le_add_left _ _, by show s.link.attempt + 1 ≤ 8; omega⟩, hh, trivial⟩
    · unfold finishExchange
      refine afterWork_linkOk ?_ ?_ rfl ?_
      · simpa using h.1
      · simpa using h.2.1
      · simpa using hh

/-! ### The link actions -/

theorem enableLink_linkOk (l : Level) {s : State} (h : LinkOk s) : LinkOk (enableLink l s).1 := by
  unfold enableLink
  split
  · rename_i ho
    split
    · split
      · have hk := h.2.2
        unfold LinkEngine.Ok at hk
        rw [ho] at hk
        exact ⟨h.1, h.2.1, hk.1, rfl, hk.2.2⟩
      · exact takeFault_linkOk h
    · exact h
  all_goals exact h

theorem disableLink_linkOk {s : State} (h : LinkOk s) : LinkOk (disableLink s).1 := by
  have hk := h.2.2
  unfold LinkEngine.Ok at hk
  unfold disableLink
  split
  · exact h
  · rename_i hs
    rw [hs] at hk
    exact ⟨h.1, h.2.1, hk.1, rfl, hk.2.2.1, rfl, hk.2.2.2.2⟩
  · rename_i hs
    rw [hs] at hk
    exact ⟨h.1, h.2.1, hk.1, by have := hk.2.1; show s.link.activity = _ ∨ s.link.activity = _ ∨ _; tauto, hk.2.2.1,
      hk.2.2.2.1, rfl⟩
  · rename_i hs
    rw [hs] at hk
    exact ⟨h.1, h.2.1, hk.1, by have := hk.2.1; show s.link.activity = _ ∨ s.link.activity = _ ∨ _; tauto, hk.2.2.1,
      hk.2.2.2.1, rfl⟩
  · rename_i hs
    rw [hs] at hk
    exact ⟨h.1, h.2.1, hk.1, by have := hk.2.1; show s.link.activity = _ ∨ s.link.activity = _ ∨ _; tauto, hk.2.2.1,
      hk.2.2.2.1, rfl⟩
  · exact h
  · rename_i hs
    rw [hs] at hk
    refine ⟨h.1, h.2.1, ?_⟩
    simp only [setLink_link, LinkEngine.Ok, hs]
    exact hk
  · rename_i hs
    rw [hs] at hk
    split
    · refine ⟨h.1, h.2.1, ?_⟩
      simp only [setLink_link, LinkEngine.Ok, hs]
      exact hk
    · rename_i hn
      simp only [Bool.or_eq_true, not_or, Bool.not_eq_true, Option.isSome_eq_false_iff, Option.isNone_iff_eq_none] at hn
      exact ⟨h.1, h.2.1, hn.1.1, rfl, hn.1.2, rfl, hn.2⟩

theorem restartLink_linkOk {s : State} (h : LinkOk s) : LinkOk (restartLink s).1 := by
  have hk := h.2.2
  unfold restartLink
  split
  · exact h
  · rename_i hs
    unfold LinkEngine.Ok at hk
    rw [hs] at hk
    exact beginRestart_linkOk h.1 h.2.1 hk.1
  all_goals
    rename_i hs
    refine ⟨h.1, h.2.1, ?_⟩
    unfold LinkEngine.Ok at hk
    rw [hs] at hk
    simp only [setLink_link, LinkEngine.Ok, hs]
    exact hk

/-! ### The events on the line -/

/-- An event that moves on within an exchange: the state shown and the activity agree, and nothing else of note moves. -/
theorem exchange_step {s : State} (h : LinkOk s) (shown : LinkState) (act : Activity) (w : Option Byte)
    (hs : s.link.state = .sending ∨ s.link.state = .waiting ∨ s.link.state = .receiving ∨ s.link.state = .stopping)
    (ha : (shown = .sending ∧ act = .transmitting) ∨ (shown = .waiting ∧ act = .awaiting) ∨
      (shown = .receiving ∧ act = .receiving)) :
    LinkOk (s.setLink { s.link with state := exchangeState s.link shown, activity := act, window := w }) := by
  obtain ⟨hc, hat, hh, hp⟩ := exchange_fields h.2.2 hs
  refine ⟨h.1, h.2.1, ?_⟩
  cases hsp : s.link.stopPending with
  | true =>
    rcases ha with ⟨rfl, rfl⟩ | ⟨rfl, rfl⟩ | ⟨rfl, rfl⟩ <;>
      (simp only [setLink_link, LinkEngine.Ok, exchangeState, hsp, if_true]
       exact ⟨hc, by simp, hat, hh, trivial⟩)
  | false =>
    rcases ha with ⟨rfl, rfl⟩ | ⟨rfl, rfl⟩ | ⟨rfl, rfl⟩ <;>
      (simp only [setLink_link, LinkEngine.Ok, exchangeState, hsp, Bool.false_eq_true, if_false]
       exact ⟨hc, by simp, hat, hh, trivial⟩)

theorem callSent_linkOk {s : State} (h : LinkOk s) : LinkOk (callSent s) := by
  unfold callSent
  split
  · rename_i hx
    have hs := ((exchangeIn_iff _ _ _).mp hx).2
    exact exchange_step h .waiting .awaiting _ (by tauto) (by simp)
  · split
    · rename_i hb
      have hk := h.2.2
      unfold LinkEngine.Ok at hk
      rw [hb.1] at hk
      refine ⟨h.1, h.2.1, ?_⟩
      simp only [setLink_link, LinkEngine.Ok, hb.1]
      exact ⟨hk.1, by simp, hk.2.2⟩
    · exact h

theorem replyStartBit_linkOk {s : State} (h : LinkOk s) : LinkOk (replyStartBit s) := by
  unfold replyStartBit
  split
  · rename_i hx
    have hs := ((exchangeIn_iff _ _ _).mp hx).2
    exact exchange_step h .receiving .receiving _ (by tauto) (by simp)
  · exact h

theorem retryGapEnd_linkOk {s : State} (h : LinkOk s) : LinkOk (retryGapEnd s) := by
  unfold retryGapEnd
  split
  · rename_i hx
    have hs := ((exchangeIn_iff _ _ _).mp hx).2
    have hk := h.2.2
    unfold LinkEngine.Ok at hk
    refine ⟨h.1, h.2.1, ?_⟩
    rcases hs with hs | hs <;> rw [hs] at hk <;> simp only [setLink_link, LinkEngine.Ok, hs]
    · exact ⟨hk.1, by simp, hk.2.2⟩
    · exact ⟨hk.1, by simp, hk.2.2⟩
  · exact h

theorem broadcastEnd_linkOk {s : State} (h : LinkOk s) : LinkOk (broadcastEnd s) := by
  unfold broadcastEnd
  split
  · rename_i hs
    have hk := h.2.2
    unfold LinkEngine.Ok at hk
    rw [hs] at hk
    exact afterWork_linkOk h.1 h.2.1 hk.1 hk.2.2
  all_goals exact h

theorem lineFault_linkOk (c : FaultCause) {s : State} (h : LinkOk s) : LinkOk (lineFault c s) := by
  unfold lineFault
  split
  · exact h
  · rename_i hs
    have hk := h.2.2
    unfold LinkEngine.Ok at hk
    rw [hs] at hk
    split
    · refine ⟨h.1, Nat.zero_le _, ?_⟩
      simp only [setLink_link, LinkEngine.Ok, hs]
      exact hk
    · exact h
  all_goals
    split
    · exact takeFault_linkOk h
    · exact h

theorem leaveFault_linkOk {s : State} (h : LinkOk s) (hs : s.link.state = .fault) : LinkOk (leaveFault s) := by
  have hk := h.2.2
  unfold LinkEngine.Ok at hk
  rw [hs] at hk
  unfold leaveFault
  cases hc : s.link.current with
  | some c =>
    have hh : s.link.heldBroadcast = false := by
      cases hb : s.link.heldBroadcast with
      | false => rfl
      | true => simp [hk.2 hb] at hc
    simpa using startExchange_linkOk h.1 h.2.1 (by simp [hc]) hh
  | none =>
    cases hb : s.link.heldBroadcast with
    | true => exact ⟨h.1, h.2.1, hc, Or.inl rfl, rfl⟩
    | false => simpa using afterWork_linkOk h.1 h.2.1 hc hb

theorem lineRestored_linkOk {s : State} (h : LinkOk s) : LinkOk (lineRestored s) := by
  unfold lineRestored
  split
  · rename_i hs
    split
    · exact leaveFault_linkOk (linkOk_congr (by simp) h) (by simpa using hs)
    · exact h
  all_goals exact h

theorem quietTimeRestart_linkOk (c : QuietBreak) {s : State} (h : LinkOk s) : LinkOk (quietTimeRestart c s) := by
  unfold quietTimeRestart
  split
  · rename_i hs
    have hk := h.2.2
    unfold LinkEngine.Ok at hk
    rw [hs] at hk
    have hq : LinkOk (s.setLink { s.link with quiet := 0 }) := by
      refine ⟨h.1, Nat.zero_le _, ?_⟩
      simp only [setLink_link, LinkEngine.Ok, hs]
      exact hk
    unfold breakPins
    split
    · exact linkOk_congr rfl hq
    · exact linkOk_congr rfl hq
  all_goals exact h

theorem linkTick_ok (lfltn rxd : Level) {l : LinkEngine} (hq : l.quiet ≤ 10) (h : l.Ok) :
    (l.tick lfltn rxd).quiet ≤ 10 ∧ (l.tick lfltn rxd).Ok := by
  unfold LinkEngine.tick
  split
  · rename_i hs
    have hk := h
    unfold LinkEngine.Ok at hk
    rw [hs] at hk
    refine ⟨?_, ?_⟩
    · show (if lfltn = .high ∧ rxd = .high then min (l.quiet + 1) Config.quietGoal else 0) ≤ 10
      split
      · exact Nat.min_le_right _ _
      · exact Nat.zero_le _
    · simp only [LinkEngine.Ok, hs]
      exact hk
  all_goals exact ⟨hq, h⟩

end Sys2Proof.Machine
end

