-- ==== Sys2Proof/Laws/Exchange.lean ====
section
/-! SUPPORT. What the claims about commands start from: a command taken while RESETN is high or low, slots and handles
as bytes, the bits of a frame and its echo, an entry put back, a message's number, and the execution of a command that ends an
attempt or an exchange. -/

namespace Sys2Proof.Machine

/-! ## RESETN -/

theorem whileRunning_running {f : State → State} {s : State} (h : s.Running) : whileRunning f s = f s := by
  unfold whileRunning; rw [h]

/-! ## Slots and handles as bytes -/

theorem slotOfByte_slotByte (k : Slot) : slotOfByte (slotByte k) = some k := by
  revert k; decide +kernel

theorem slotOfByte_eq_none {b : Byte} (h : b = 0 ∨ 30 < b.toNat) : slotOfByte b = none := by
  unfold slotOfByte
  rw [dif_neg]
  rcases h with rfl | h
  · decide
  · omega

theorem handleOfByte_handleByte (k : Handle) : handleOfByte (handleByte k) = some k := by
  revert k; decide

theorem handleOfByte_eq_none {b : Byte} (h : 8 ≤ b.toNat) : handleOfByte b = none := by
  unfold handleOfByte
  rw [dif_neg]; omega

theorem setWidth_nibble (x : BitVec 4) : x.setWidth 8 = 0#4 ++ x := by revert x; decide

theorem setWidth_byte (x : Byte) : x.setWidth 16 = 0#8 ++ x := by revert x; decide +kernel

/-! ## Bits on the line -/

theorem startConfirmed_serial (b : Byte) : startConfirmed (serial b) = true := by revert b; decide +kernel

theorem sampledByte_serial (b : Byte) : sampledByte (serial b) = b := by revert b; decide +kernel

theorem hasFramingError_serial (b : Byte) : hasFramingError (serial b) = false := by revert b; decide +kernel

/-- A break is a framing error by its stop bit alone. -/
theorem hasFramingError_eq (c : Samples) : hasFramingError c = !c.getLsbD 9 := by revert c; decide +kernel

/-- The bytes put on the line are the bytes received. -/
theorem receivedBytes_serial (bytes : List Byte) : receivedBytes (bytes.map serial) = bytes := by
  induction bytes with
  | nil => rfl
  | cons b rest ih =>
    simp only [receivedBytes, List.map_cons, List.filter_cons, startConfirmed_serial, if_true, sampledByte_serial] at *
    rw [ih]

/-- A frame sent whole has no framing error. -/
theorem anyFramingError_serial (bytes : List Byte) : anyFramingError (bytes.map serial) = false := by
  simp [anyFramingError, hasFramingError_serial]

theorem lineBits_cons (b : Byte) (l : List Byte) :
    lineBits (b :: l) = ((List.range 10).map fun k => (serial b).getLsbD k) ++ lineBits l := by
  simp [lineBits, Config.byteBits]

theorem length_lineBits (l : List Byte) : (lineBits l).length = 10 * l.length := by
  induction l with
  | nil => rfl
  | cons b l ih => rw [lineBits_cons, List.length_append, ih]; simp; omega

/-- Bit k of byte n is on the line in bit time 10 n + k. -/
theorem getD_lineBits (l : List Byte) (n k : Nat) (b : Byte) (d : Bool) (h : l[n]? = some b) (hk : k < 10) :
    (lineBits l).getD (10 * n + k) d = (serial b).getLsbD k := by
  induction l generalizing n with
  | nil => simp at h
  | cons x l ih =>
    rw [lineBits_cons, List.getD_eq_getElem?_getD]
    cases n with
    | zero =>
      simp at h; subst h
      rw [List.getElem?_append_left (by simp; omega)]
      simp [hk]
    | succ n =>
      simp at h
      rw [List.getElem?_append_right (by simp; omega)]
      have := ih n h
      rw [List.getD_eq_getElem?_getD] at this
      rw [← this]; congr 2; simp; omega

theorem txBits_of_txFrame {s : State} {bytes : List Byte} (h : s.txFrame = some bytes) :
    s.txBits = 10 * bytes.length := by
  simp [State.txBits, h, length_lineBits]

/-- What TXD carries in bit k of byte n of the frame. -/
theorem txd_of_txFrame {s : State} {bytes : List Byte} {n k : Nat} {b : Byte} (h : s.txFrame = some bytes)
    (hb : bytes[n]? = some b) (hk : k < 10) : s.txd (10 * n + k) = levelOf ((serial b).getLsbD k) := by
  unfold State.txd; rw [h]; simp only; rw [getD_lineBits _ _ _ _ _ hb hk]

/-- The comparator does not run while nothing is transmitted. -/
theorem echoMismatch_of_quiet {s : State} (h : s.link.activity ≠ .transmitting) (bit : Nat) (rxd : Level) :
    s.echoMismatch bit rxd = false := by
  have hn : s.txFrame = none := by simp [State.txFrame, State.txen, h]
  simp [State.echoMismatch, State.txBits, hn]

/-- A driven bit is an echo mismatch where the level sampled is not the one on TXD. -/
theorem echoMismatch_iff {s : State} {bytes : List Byte} {n k : Nat} {b : Byte} (h : s.txFrame = some bytes)
    (hb : bytes[n]? = some b) (hk : k < 10) (rxd : Level) :
    s.echoMismatch (10 * n + k) rxd = true ↔ rxd ≠ levelOf ((serial b).getLsbD k) := by
  have hn : n < bytes.length := (List.getElem?_eq_some_iff.mp hb).1
  simp only [State.echoMismatch, txBits_of_txFrame h, txd_of_txFrame h hb hk, Bool.and_eq_true, decide_eq_true_eq]
  exact ⟨fun h => h.2, fun h => ⟨by omega, h⟩⟩

/-! ## Entries put back -/

theorem setEntry_entry_self (s : State) (k : Slot) : s.setEntry k (s.entry k) = s := by
  unfold State.setEntry State.entry; simp

theorem setEntry_setEntry (s : State) (k : Slot) (a b : Entry) : (s.setEntry k a).setEntry k b = s.setEntry k b := by
  simp [State.setEntry]

theorem entry_setEntry_self (s : State) (k : Slot) (a : Entry) : (s.setEntry k a).entry k = a := by
  simp [State.setEntry, State.entry]

theorem isActive_of_state {e : Entry} {d : ActiveData} (h : e.state = .active d) : e.isActive = true := by
  simp [Entry.isActive, Entry.active?, h]

/-! ## The number of a message -/

/-- A message's number is taken after the MESSAGE_GAP of one that does not follow the last. -/
theorem postGap_clearMisses (s : State) (k : Slot) (n : BitVec 4) :
    ((postGap k n (clearMisses k s)).updEntry k fun e => { e with lastNumber := some n }) =
      (match (s.entry k).lastNumber with
        | none => s
        | some m => if n = m + 1 then s else post .messageGap (slotByte k) (0#4 ++ n) s).setEntry k
          { s.entry k with missCount := 0, lastNumber := some n } := by
  have e1 : ((clearMisses k s).entry k) = { s.entry k with missCount := 0 } := by
    simp [clearMisses, State.updEntry, entry_setEntry_self]
  unfold postGap; simp only [e1]
  cases hl : (s.entry k).lastNumber with
  | none => simp [State.updEntry, clearMisses, entry_setEntry_self, setEntry_setEntry]
  | some m =>
    simp only
    split
    · simp [State.updEntry, clearMisses, entry_setEntry_self, setEntry_setEntry]
    · simp [State.updEntry, State.setEntry, State.entry, clearMisses, setWidth_nibble, post]
      split <;> simp

/-! ## The end of an attempt and of an exchange -/

theorem retries_eq_false {c : Call} {o : ExchangeOutcome} {l : LinkEngine} (h : ¬ Retried c o l) :
    retries c l.attempt l.retryLimit o = false := by
  unfold Retried at h
  unfold retries
  cases o with
  | reply r q => rfl
  | silence => cases hk : c.kind <;> simp_all
  | garble => cases hk : c.kind <;> simp_all

theorem retries_eq_true {c : Call} {o : ExchangeOutcome} {l : LinkEngine} (h : Retried c o l) :
    retries c l.attempt l.retryLimit o = true := by
  unfold Retried at h
  unfold retries
  cases o with
  | reply r q => simp_all
  | silence => cases hk : c.kind <;> simp_all
  | garble => cases hk : c.kind <;> simp_all

/-- The three commands that end an attempt do one thing. -/
theorem exec_of_attemptEnds {i : Instr} {c : Call} {o : ExchangeOutcome} {s : State} (h : AttemptEnds i c o s) :
    exec i s = .next (endAttempt o s) := by
  obtain ⟨hr, hc, h | h | h⟩ := h
  · obtain ⟨first, rest, rfl, he, hk⟩ := h
    simp only [exec, execReplyFrameEnd, whileRunning_running hr, replyFrameEnd, he, if_true, State.frameOutcome, hc, hk]
  · obtain ⟨rfl, he, rfl⟩ := h
    simp only [exec, execReplyWindowExpiry, whileRunning_running hr, replyWindowExpiry, he, if_true]
  · obtain ⟨rfl, he, rfl⟩ := h
    simp only [exec, execReceptionLimit, whileRunning_running hr, receptionLimit, he, if_true]

/-- A command that ends an exchange delivers its outcome and finishes the exchange. -/
theorem exec_of_exchangeEnds {i : Instr} {c : Call} {o : ExchangeOutcome} {s : State} (h : ExchangeEnds i c o s) :
    exec i s = .next (finishExchange (deliver c o s)) := by
  obtain ⟨h, hn⟩ := h
  rw [exec_of_attemptEnds h, endAttempt, h.2.1]
  simp [retries_eq_false hn]

/-! ## A choice keeps the deferred queue as it should be -/

theorem chooseCall_deferredOk {s : State} (h : DeferredOk s) : DeferredOk (chooseCall s) := by
  unfold chooseCall
  split
  · split
    · exact h
    · rename_i w hw
      have key : ∀ (c : Call) (u : State), u.mu = s.mu → (c.kind = .fetch → s.deferredOf c.slot = none) → DeferredOk (handIn c u) := by
        intro c u hu hk
        refine ⟨by simp [hu]; exact h.1, by simp [hu]; exact h.2.1, ?_, by simp [hu]; exact h.2.2.2⟩
        rintro i ⟨c', hc', hk', hs'⟩
        simp [handIn_link] at hc'; subst hc'
        unfold State.deferredOf at *
        rw [handIn_mu, hu, ← hs']; exact hk hk'
      unfold takeWork startCommand; repeat' split
      all_goals first | with_reducible exact h | skip
      · exact key _ _ rfl (by intro h; cases h)
      · exact key _ _ rfl (by unfold verdictCall; intro h; split at h <;> cases h)
      · exact key _ _ rfl (by unfold negotiationCall; intro h; split at h <;> cases h)
      · exact key _ _ rfl (by intro h; cases h)
      · exact key _ _ rfl (by intro h; cases h)
      · exact key _ _ rfl (fun _ => fetchWork_free (nextWork_fetch hw))
      · exact key _ _ rfl (by intro h; cases h)
      · exact key _ _ rfl (by intro h; cases h)
  all_goals exact h

end Sys2Proof.Machine
end

