-- ==== Sys2Proof/Laws/Notices.lean ====
section
/-! SUPPORT. Posting: what it writes, and that every shared operation keeps the bounds of the notice queue. -/

namespace Sys2Proof.Machine

/-! ### Posting -/

theorem post_nq_of_room (k : NoticeKind) (a b : Byte) (s : State) (h : s.nq.notices.length < 32) :
    (post k a b s).nq = { s.nq with notices := s.nq.notices ++ [⟨k, a, b, s.sched.mscount⟩] } := by
  simp [post, Config.noticePlaces, h]

theorem post_nq_of_full (k : NoticeKind) (a b : Byte) (s : State) (h : 32 ≤ s.nq.notices.length) :
    (post k a b s).nq = { s.nq with lost := min (s.nq.lost + 1) 255 } := by
  simp [post, Config.noticePlaces, Nat.not_lt.mpr h]

/-! ### The bounds -/

theorem noticesOk_of_nq {s t : State} (h : t.nq = s.nq) (hs : NoticesOk s) : NoticesOk t := by
  simpa [NoticesOk, h] using hs

theorem post_noticesOk (k : NoticeKind) (a b : Byte) {s : State} (h : NoticesOk s) : NoticesOk (post k a b s) := by
  obtain ⟨h1, h2, h3⟩ := h
  unfold NoticesOk
  rcases Nat.lt_or_ge s.nq.notices.length 32 with hl | hl
  · rw [post_nq_of_room _ _ _ _ hl]
    refine ⟨?_, h2, ?_⟩
    · simp
      omega
    · intro hp
      have := h3 hp
      omega
  · rw [post_nq_of_full _ _ _ _ hl]
    refine ⟨h1, ?_, ?_⟩
    · simp
    · intro
      simp
      omega

theorem orphan_noticesOk (i : Slot) {s : State} (h : NoticesOk s) : NoticesOk (orphan i s) := by
  unfold orphan
  split
  · exact h
  · exact post_noticesOk _ _ _ (noticesOk_of_nq rfl h)

theorem postPagesDropped_noticesOk (i : Slot) {s : State} (h : NoticesOk s) : NoticesOk (postPagesDropped i s) := by
  unfold postPagesDropped
  split
  · exact h
  · split
    · exact h
    · exact post_noticesOk _ _ _ h

theorem enterNegotiating_noticesOk (i : Slot) (c : BitVec 4) {s : State} (h : NoticesOk s) :
    NoticesOk (enterNegotiating i c s) :=
  post_noticesOk _ _ _ (noticesOk_of_nq rfl h)

theorem renegotiate_noticesOk (i : Slot) (c : Byte) {s : State} (h : NoticesOk s) :
    NoticesOk (renegotiate i c s) :=
  post_noticesOk _ _ _ (noticesOk_of_nq (by simp) h)

theorem enterActive_noticesOk (i : Slot) (p : Profile) {s : State} (h : NoticesOk s) :
    NoticesOk (enterActive i p s) :=
  post_noticesOk _ _ _ (noticesOk_of_nq (by simp) (postPagesDropped_noticesOk i h))

theorem enterFailed_noticesOk (i : Slot) (c : FaultCode) {s : State} (h : NoticesOk s) :
    NoticesOk (enterFailed i c s) :=
  post_noticesOk _ _ _ (orphan_noticesOk i (noticesOk_of_nq (by simp) (postPagesDropped_noticesOk i h)))

theorem enterLost_noticesOk (i : Slot) {s : State} (h : NoticesOk s) : NoticesOk (enterLost i s) :=
  orphan_noticesOk i (post_noticesOk _ _ _ (noticesOk_of_nq (by simp) h))

theorem enterVacant_noticesOk (i : Slot) (st : CompletionStatus) {s : State} (h : NoticesOk s) :
    NoticesOk (enterVacant i st s) :=
  orphan_noticesOk i (noticesOk_of_nq (by simp) h)

theorem restartEntry_noticesOk (i : Slot) {s : State} (h : NoticesOk s) : NoticesOk (restartEntry s i) := by
  unfold restartEntry
  split
  · exact h
  · exact enterVacant_noticesOk i _ h

theorem restartFold_noticesOk (l : List Slot) {s : State} (h : NoticesOk s) :
    NoticesOk (l.foldl restartEntry s) := by
  induction l generalizing s with
  | nil => exact h
  | cons i l ih => exact ih (restartEntry_noticesOk i h)

theorem restartTable_noticesOk {s : State} (h : NoticesOk s) : NoticesOk (restartTable s) := by
  have hf := restartFold_noticesOk allSlots h
  unfold restartTable
  generalize allSlots.foldl restartEntry s = t at hf ⊢
  exact post_noticesOk _ _ _ (noticesOk_of_nq rfl hf)

theorem beginRestart_noticesOk {s : State} (h : NoticesOk s) : NoticesOk (beginRestart s) :=
  noticesOk_of_nq (by simp [beginRestart]) (restartTable_noticesOk (s := s.setLink { s.link with restartPending := false })
    (noticesOk_of_nq rfl h))

theorem afterWork_noticesOk {s : State} (h : NoticesOk s) : NoticesOk (afterWork s) := by
  unfold afterWork
  repeat' split
  · exact beginRestart_noticesOk h
  · exact noticesOk_of_nq rfl h
  · exact noticesOk_of_nq rfl h

theorem takeFault_noticesOk {s : State} (h : NoticesOk s) : NoticesOk (takeFault s) :=
  post_noticesOk _ _ _ (noticesOk_of_nq rfl h)

/-! ### The bounds through a delivery -/

theorem countMiss_noticesOk (i : Slot) {s : State} (h : NoticesOk s) : NoticesOk (countMiss i s) := by
  unfold countMiss
  split
  · exact enterLost_noticesOk i (noticesOk_of_nq rfl h)
  · exact noticesOk_of_nq rfl h

theorem postAlarm_noticesOk (i : Slot) (a b : Byte) {s : State} (h : NoticesOk s) : NoticesOk (postAlarm i a b s) := by
  unfold postAlarm
  split
  · exact h
  · exact post_noticesOk _ _ _ h

theorem applyStatus_noticesOk (i : Slot) (a : Byte) (r : StatusRecord) {s : State} (h : NoticesOk s) :
    NoticesOk (applyStatus i a r s) :=
  noticesOk_of_nq (by simp [applyStatus]) (postAlarm_noticesOk i a r.alarm h)

theorem deliverPoll_noticesOk (i : Slot) (o : ExchangeOutcome) {s : State} (h : NoticesOk s) :
    NoticesOk (deliverPoll i o s) := by
  unfold deliverPoll
  repeat' split
  · exact h
  · exact applyStatus_noticesOk _ _ _ (noticesOk_of_nq (by simp) h)
  · exact noticesOk_of_nq (by simp) h
  · exact countMiss_noticesOk _ (noticesOk_of_nq (by simp) h)
  · exact countMiss_noticesOk _ (noticesOk_of_nq (by simp) h)

theorem countMissIfActive_noticesOk (i : Slot) {s : State} (h : NoticesOk s) :
    NoticesOk (countMissIfActive i s) := by
  unfold countMissIfActive
  split
  · exact countMiss_noticesOk i h
  · exact h

theorem deliverCommand_noticesOk (i : Slot) (q : Bool) (o : ExchangeOutcome) {s : State} (h : NoticesOk s) :
    NoticesOk (deliverCommand i q o s) := by
  unfold deliverCommand
  repeat' split
  all_goals
    first
      | with_reducible exact h
      | with_reducible exact countMissIfActive_noticesOk _ (noticesOk_of_nq (by simp) h)
      | with_reducible exact noticesOk_of_nq (by simp) h

theorem rejectMalformed_noticesOk (i : Slot) (c : Byte) (n : BitVec 4) {s : State} (h : NoticesOk s) :
    NoticesOk (rejectMalformed i c n s) :=
  post_noticesOk _ _ _ (noticesOk_of_nq (by simp) h)

theorem judgeClass_noticesOk (i : Slot) (c : Byte) (n : BitVec 4) (l : List Byte) (b : Bool) {s : State}
    (h : NoticesOk s) : NoticesOk (judgeClass i c n l b s) := by
  unfold judgeClass judgeHold judgeLateResult
  repeat' split
  all_goals
    first
      | with_reducible exact rejectMalformed_noticesOk _ _ _ h
      | with_reducible exact post_noticesOk _ _ _ (noticesOk_of_nq (by simp) h)
      | with_reducible exact noticesOk_of_nq (by simp) h

theorem postGap_noticesOk (i : Slot) (n : BitVec 4) {s : State} (h : NoticesOk s) : NoticesOk (postGap i n s) := by
  unfold postGap
  repeat' split
  · exact h
  · exact h
  · exact post_noticesOk _ _ _ h

theorem judgeMessage_noticesOk (i : Slot) (c : Byte) (n : BitVec 4) (l : List Byte) (b : Bool) {s : State}
    (h : NoticesOk s) : NoticesOk (judgeMessage i c n l b s) := by
  unfold judgeMessage
  repeat' split
  · exact h
  · exact noticesOk_of_nq (by simp) h
  · exact judgeClass_noticesOk _ _ _ _ _ (noticesOk_of_nq (by simp) (postGap_noticesOk i n h))

theorem deliverFetch_noticesOk (i : Slot) (o : ExchangeOutcome) {s : State} (h : NoticesOk s) :
    NoticesOk (deliverFetch i o s) := by
  unfold deliverFetch
  repeat' split
  · exact judgeMessage_noticesOk _ _ _ _ _ (noticesOk_of_nq (by simp) h)
  · exact noticesOk_of_nq (by simp) h
  · exact noticesOk_of_nq (by simp) h
  · exact countMiss_noticesOk _ h
  · exact countMiss_noticesOk _ h
  · exact h

theorem deliverVerdict_noticesOk (i : Slot) (o : ExchangeOutcome) {s : State} (h : NoticesOk s) :
    NoticesOk (deliverVerdict i o s) := by
  unfold deliverVerdict
  repeat' split
  all_goals
    first
      | with_reducible exact h
      | with_reducible exact renegotiate_noticesOk _ _ (noticesOk_of_nq (by simp) h)
      | with_reducible exact noticesOk_of_nq (by simp) h
      | with_reducible exact countMiss_noticesOk _ h

theorem endStep_noticesOk (i : Slot) (c : Context) (b : Bool) {s : State} (h : NoticesOk s) :
    NoticesOk (endStep i c b s) := by
  unfold endStep
  repeat' split
  all_goals
    first
      | with_reducible exact enterFailed_noticesOk _ _ h
      | with_reducible exact noticesOk_of_nq (by simp) h

theorem judgePage_noticesOk (i : Slot) (c : Context) (p : Page) (b : Bool) {s : State} (h : NoticesOk s) :
    NoticesOk (judgePage i c p b s) := by
  unfold judgePage
  split
  · exact enterFailed_noticesOk _ _ h
  · split
    · exact endStep_noticesOk _ _ _ (noticesOk_of_nq (by simp) h)
    · exact endStep_noticesOk _ _ _ h

theorem pageStep_noticesOk (i : Slot) (c : Context) (p : Page) {s : State} (h : NoticesOk s) :
    NoticesOk (pageStep i c p s) := by
  unfold pageStep
  dsimp only
  split
  · exact enterFailed_noticesOk _ _ (noticesOk_of_nq (by simp) h)
  · exact judgePage_noticesOk _ _ _ _ (noticesOk_of_nq (by simp) h)

theorem deliverPage_noticesOk (i : Slot) (o : ExchangeOutcome) {s : State} (h : NoticesOk s) :
    NoticesOk (deliverPage i o s) := by
  unfold deliverPage
  repeat' split
  all_goals
    first
      | with_reducible exact h
      | with_reducible exact pageStep_noticesOk _ _ _ h
      | with_reducible exact enterFailed_noticesOk _ _ h

theorem deliverSettle_noticesOk (i : Slot) (o : ExchangeOutcome) {s : State} (h : NoticesOk s) :
    NoticesOk (deliverSettle i o s) := by
  unfold deliverSettle
  repeat' split
  all_goals
    first
      | with_reducible exact h
      | with_reducible exact enterActive_noticesOk _ _ h
      | with_reducible exact enterFailed_noticesOk _ _ h

theorem deliverCensus_noticesOk (i : Slot) (o : ExchangeOutcome) {s : State} (h : NoticesOk s) :
    NoticesOk (deliverCensus i o s) := by
  unfold deliverCensus stopCensus
  repeat' split
  all_goals
    first
      | with_reducible exact h
      | with_reducible exact enterNegotiating_noticesOk _ _ h
      | with_reducible exact post_noticesOk _ _ _ (noticesOk_of_nq (s := s) rfl h)

theorem deliver_noticesOk (c : Call) (o : ExchangeOutcome) {s : State} (h : NoticesOk s) :
    NoticesOk (deliver c o s) := by
  unfold deliver
  split
  · exact deliverCensus_noticesOk _ _ h
  · exact deliverPage_noticesOk _ _ h
  · exact deliverSettle_noticesOk _ _ h
  · exact deliverPoll_noticesOk _ _ h
  · exact deliverFetch_noticesOk _ _ h
  · exact deliverVerdict_noticesOk _ _ h
  · exact deliverCommand_noticesOk _ _ _ h
  · exact noticesOk_of_nq (by simp) h

theorem endAttempt_noticesOk (o : ExchangeOutcome) {s : State} (h : NoticesOk s) : NoticesOk (endAttempt o s) := by
  unfold endAttempt
  repeat' split
  · exact h
  · exact noticesOk_of_nq rfl h
  · exact afterWork_noticesOk (noticesOk_of_nq rfl (deliver_noticesOk _ _ h))

theorem timeOut_noticesOk (d : Deferred) {s : State} (h : NoticesOk s) : NoticesOk (timeOut s d) :=
  post_noticesOk _ _ _ (noticesOk_of_nq (by simp) h)

theorem timeOutFold_noticesOk (l : List Deferred) {s : State} (h : NoticesOk s) : NoticesOk (l.foldl timeOut s) := by
  induction l generalizing s with
  | nil => exact h
  | cons d l ih => exact ih (timeOut_noticesOk d h)

end Sys2Proof.Machine
end

