-- ==== Sys2Proof/Laws/Table.lean ====
section
/-! SUPPORT. The entries and the page pool: that every shared operation keeps what the rules promise of each entry and
keeps the received pages within the pool. -/

namespace Sys2Proof.Machine

/-! ### The page pool -/

theorem sum_map_set (l : List Entry) (f : Entry → Nat) (k : Nat) (e : Entry) (hk : k < l.length) :
    ((l.set k e).map f).sum + f l[k] = (l.map f).sum + f e := by
  induction l generalizing k with
  | nil => simp at hk
  | cons x xs ih =>
    cases k with
    | zero => simp; omega
    | succ k =>
      have := ih k (by simpa using hk)
      simp only [List.set_cons_succ, List.map_cons, List.sum_cons, List.getElem_cons_succ]
      omega

theorem pagesHeld_setEntry (i : Slot) (e : Entry) (s : State) :
    (s.setEntry i e).pagesHeld + (s.entry i).pages.length = s.pagesHeld + e.pages.length := by
  have hi : i.val < s.table.toList.length := by simp
  have hget : s.table.toList[i.val] = s.entry i := by simp [State.entry]
  have h := sum_map_set s.table.toList (fun e => e.pages.length) i.val e hi
  rw [hget] at h
  unfold State.pagesHeld
  rw [setEntry_table, Vector.toList_set]
  exact h

theorem pagesHeld_congr {s t : State} (h : t.table = s.table) : t.pagesHeld = s.pagesHeld := by
  simp [State.pagesHeld, h]

/-! ### What a table keeps -/

/-- Every entry is as the rules promise and the pages fit the pool. -/
def EntriesOk (s : State) : Prop := (∀ i : Slot, (s.entry i).Ok) ∧ s.pagesHeld ≤ 96

theorem entriesOk_congr {s t : State} (h : t.table = s.table) (hs : EntriesOk s) : EntriesOk t := by
  refine ⟨fun i => ?_, ?_⟩
  · rw [entry_congr h]
    exact hs.1 i
  · rw [pagesHeld_congr h]
    exact hs.2

theorem entriesOk_updEntry (i : Slot) (f : Entry → Entry) {s : State} (h : EntriesOk s)
    (hf : (s.entry i).Ok → (f (s.entry i)).Ok)
    (hp : (f (s.entry i)).pages.length ≤ (s.entry i).pages.length) : EntriesOk (s.updEntry i f) := by
  refine ⟨fun j => ?_, ?_⟩
  · rw [entry_updEntry]
    split
    · exact hf (h.1 i)
    · exact h.1 j
  · have := pagesHeld_setEntry i (f (s.entry i)) s
    have h2 := h.2
    show (s.setEntry i (f (s.entry i))).pagesHeld ≤ 96
    omega

/-- An update that keeps the state, the flag, the hold and the pages of an entry keeps the table. -/
theorem entriesOk_updEntry_same (i : Slot) (f : Entry → Entry) {s : State} (h : EntriesOk s)
    (hs : ∀ e, (f e).state = e.state) (hr : ∀ e, (f e).releaseOwed = e.releaseOwed) (hh : ∀ e, (f e).hold = e.hold)
    (hp : ∀ e, (f e).pages = e.pages) : EntriesOk (s.updEntry i f) := by
  refine entriesOk_updEntry i f h ?_ (by rw [hp])
  intro hk
  unfold Entry.Ok Entry.isActive Entry.active? at *
  rw [hs, hr, hh]
  exact hk

theorem updActive_ok (f : ActiveData → ActiveData) {e : Entry} (h : e.Ok) : (e.updActive f).Ok := by
  unfold Entry.updActive
  split
  · rename_i d hd
    refine ⟨?_, fun _ => rfl, ?_⟩
    · intro hr
      have := h.1 hr
      rw [hd] at this
      cases this
    · intro ctx hc
      cases hc
  all_goals exact h

@[simp] theorem updActive_pages (f : ActiveData → ActiveData) (e : Entry) : (e.updActive f).pages = e.pages := by
  unfold Entry.updActive
  split <;> rfl

theorem entriesOk_updActive (i : Slot) (f : ActiveData → ActiveData) {s : State} (h : EntriesOk s) :
    EntriesOk (s.updEntry i (Entry.updActive f)) :=
  entriesOk_updEntry i _ h (fun hk => updActive_ok f hk) (by simp)

/-! ### The shared operations -/

theorem oweVerdict_entriesOk (i : Slot) (v : Verdict) (b : Bool) {s : State} (h : EntriesOk s) :
    EntriesOk (oweVerdict i v b s) :=
  entriesOk_congr (s := s.updEntry i fun e => { e with verdictOwed := some ⟨v, b⟩, lastVerdict := some v }) rfl
    (entriesOk_updEntry_same i _ h (fun _ => rfl) (fun _ => rfl) (fun _ => rfl) (fun _ => rfl))

theorem clearOwed_entriesOk (i : Slot) {s : State} (h : EntriesOk s) : EntriesOk (clearOwed i s) :=
  entriesOk_congr (s := s.updEntry i fun e => { e with verdictOwed := none }) rfl
    (entriesOk_updEntry_same i _ h (fun _ => rfl) (fun _ => rfl) (fun _ => rfl) (fun _ => rfl))

theorem completeOutstanding_entriesOk (i : Slot) (st : CompletionStatus) (l : List Byte) {s : State}
    (h : EntriesOk s) : EntriesOk (completeOutstanding i st l s) := by
  unfold completeOutstanding
  split
  · exact h
  · exact entriesOk_congr (s := s.updEntry i (Entry.setOutstanding none)) rfl (entriesOk_updActive i _ h)

theorem enterNegotiating_entriesOk (i : Slot) (c : BitVec 4) {s : State} (h : EntriesOk s)
    (hr : (s.entry i).releaseOwed = false) : EntriesOk (enterNegotiating i c s) := by
  unfold enterNegotiating
  refine entriesOk_congr (post_table _ _ _ _) (entriesOk_updEntry i _ h ?_ (Nat.le_refl _))
  intro _
  refine ⟨?_, ?_, ?_⟩
  · intro hx
    rw [hr] at hx
    cases hx
  · intro hx
    exact absurd rfl hx
  · intro ctx hc
    cases hc
    exact ⟨by decide, fun _ => by decide⟩

theorem renegotiate_entriesOk (i : Slot) (c : Byte) {s : State} (h : EntriesOk s)
    (hr : (s.entry i).releaseOwed = false) : EntriesOk (renegotiate i c s) := by
  unfold renegotiate
  have h1 := completeOutstanding_entriesOk i .renegotiated [] h
  have hr1 : ((completeOutstanding i .renegotiated [] s).entry i).releaseOwed = false := by
    unfold completeOutstanding
    split
    · exact hr
    · rw [appendCompletion_entry, entry_updEntry_same]
      unfold Entry.setOutstanding Entry.updActive
      split <;> exact hr
  generalize completeOutstanding i .renegotiated [] s = u at h1 hr1 ⊢
  refine entriesOk_congr (post_table _ _ _ _) (entriesOk_updEntry i _ h1 ?_ (Nat.zero_le _))
  intro _
  refine ⟨?_, ?_, ?_⟩
  · intro hx
    rw [hr1] at hx
    cases hx
  · intro hx
    exact absurd rfl hx
  · intro ctx hc
    cases hc
    exact ⟨by decide, fun _ => by decide⟩

theorem enterActive_entriesOk (i : Slot) (p : Profile) {s : State} (h : EntriesOk s)
    (hr : (s.entry i).releaseOwed = false) : EntriesOk (enterActive i p s) := by
  unfold enterActive
  refine entriesOk_congr (post_table _ _ _ _) (entriesOk_updEntry i _ (entriesOk_congr (postPagesDropped_table _ _) h) ?_
    (Nat.le_refl _))
  intro _
  refine ⟨?_, fun _ => rfl, ?_⟩
  · intro hx
    rw [postPagesDropped_entry, hr] at hx
    cases hx
  · intro ctx hc
    cases hc

theorem enterFailed_entriesOk (i : Slot) (c : FaultCode) {s : State} (h : EntriesOk s)
    (hr : (s.entry i).releaseOwed = false) (hh : (s.entry i).hold = 0) : EntriesOk (enterFailed i c s) := by
  unfold enterFailed
  refine entriesOk_congr (post_table _ _ _ _) (entriesOk_congr (orphan_table _ _) (clearOwed_entriesOk i
    (entriesOk_updEntry i _ (entriesOk_congr (postPagesDropped_table _ _) h) ?_ (Nat.le_refl _))))
  intro _
  refine ⟨?_, ?_, ?_⟩
  · intro hx
    rw [postPagesDropped_entry, hr] at hx
    cases hx
  · intro hx
    rw [postPagesDropped_entry] at hx
    exact absurd hh hx
  · intro ctx hc
    cases hc

theorem enterLost_entriesOk (i : Slot) {s : State} (h : EntriesOk s) (hr : (s.entry i).releaseOwed = false) :
    EntriesOk (enterLost i s) := by
  unfold enterLost
  have h1 := completeOutstanding_entriesOk i .moduleLost [] h
  have hr1 : ((completeOutstanding i .moduleLost [] s).entry i).releaseOwed = false := by
    unfold completeOutstanding
    split
    · exact hr
    · rw [appendCompletion_entry, entry_updEntry_same]
      unfold Entry.setOutstanding Entry.updActive
      split <;> exact hr
  generalize completeOutstanding i .moduleLost [] s = u at h1 hr1 ⊢
  refine entriesOk_congr (orphan_table _ _) (entriesOk_congr (post_table _ _ _ _) (clearOwed_entriesOk i
    (entriesOk_updEntry i _ (entriesOk_congr (settleSlot_table _ _ _) h1) ?_ (Nat.le_refl _))))
  intro _
  refine ⟨?_, ?_, ?_⟩
  · intro hx
    rw [settleSlot_entry, hr1] at hx
    cases hx
  · intro hx
    exact absurd rfl hx
  · intro ctx hc
    cases hc

theorem endCommands_entriesOk (i : Slot) (st : CompletionStatus) {s : State} (h : EntriesOk s) :
    EntriesOk (endCommands i st s) := by
  unfold endCommands
  split
  · exact entriesOk_congr (settleSlot_table _ _ _) (completeOutstanding_entriesOk i st [] h)
  · exact h

theorem enterVacant_entriesOk (i : Slot) (st : CompletionStatus) {s : State} (h : EntriesOk s) :
    EntriesOk (enterVacant i st s) := by
  unfold enterVacant
  refine entriesOk_congr (orphan_table _ _) (clearOwed_entriesOk i
    (entriesOk_updEntry i _ (endCommands_entriesOk i st h) ?_ (Nat.zero_le _)))
  intro _
  refine ⟨fun _ => rfl, ?_, ?_⟩
  · intro hx
    exact absurd rfl hx
  · intro ctx hc
    cases hc

@[simp] theorem orphan_entry' (i j : Slot) (s : State) : (orphan i s).entry j = s.entry j :=
  entry_congr (orphan_table i s) j

theorem enterVacant_entry_same (i : Slot) (st : CompletionStatus) (s : State) :
    ((enterVacant i st s).entry i).state = .vacant := by
  unfold enterVacant
  rw [orphan_entry', clearOwed_entry]
  simp

theorem restartFold_entriesOk (l : List Slot) {s : State} (h : EntriesOk s) :
    EntriesOk (l.foldl restartEntry s) := by
  induction l generalizing s with
  | nil => exact h
  | cons i l ih =>
    refine ih ?_
    unfold restartEntry
    split
    · exact h
    · exact enterVacant_entriesOk i _ h

theorem restartTable_entriesOk {s : State} (h : EntriesOk s) : EntriesOk (restartTable s) := by
  have hf := restartFold_entriesOk allSlots h
  refine ⟨fun i => ?_, ?_⟩
  · rw [restartTable_entry]
    generalize allSlots.foldl restartEntry s = t at hf ⊢
    have hk := hf.1 i
    exact ⟨(by intro hx; cases hx), hk.2.1, hk.2.2⟩
  · unfold restartTable
    generalize allSlots.foldl restartEntry s = t at hf ⊢
    rw [pagesHeld_congr (post_table _ _ _ _)]
    have h2 := hf.2
    unfold State.pagesHeld at *
    simpa [Vector.toList_map, List.map_map, Function.comp_def] using h2

theorem afterWork_entriesOk {s : State} (h : EntriesOk s) : EntriesOk (afterWork s) := by
  unfold afterWork beginRestart
  repeat' split
  · exact entriesOk_congr (enterBroadcasting_table _)
      (restartTable_entriesOk (s := s.setLink { s.link with restartPending := false }) (entriesOk_congr rfl h))
  · exact entriesOk_congr rfl h
  · exact entriesOk_congr rfl h

/-! ### Deliveries -/

/-- An entry that is not VACANT owes no release. -/
theorem notOwed_of_ok {e : Entry} (h : e.Ok) (hs : e.state ≠ .vacant) : e.releaseOwed = false := by
  cases hr : e.releaseOwed with
  | false => rfl
  | true => exact absurd (h.1 hr) hs

/-- An entry that is not ACTIVE has no hold. -/
theorem hold_of_ok {e : Entry} (h : e.Ok) (hs : e.isActive = false) : e.hold = 0 := by
  by_contra hh
  have := h.2.1 hh
  rw [hs] at this
  cases this

theorem state_of_isActive {e : Entry} (h : e.isActive = true) : ∃ d, e.state = .active d := by
  unfold Entry.isActive Entry.active? at h
  split at h
  · exact ⟨_, by assumption⟩
  all_goals cases h

theorem state_of_context {e : Entry} {ctx : Context} (h : e.context? = some ctx) : e.state = .negotiating ctx := by
  unfold Entry.context? at h
  split at h
  · cases h
    assumption
  all_goals cases h

theorem notOwed_of_context {e : Entry} {ctx : Context} (h : e.Ok) (hc : e.context? = some ctx) :
    e.releaseOwed = false ∧ e.hold = 0 := by
  have hs := state_of_context hc
  refine ⟨notOwed_of_ok h (by rw [hs]; intro hx; cases hx), hold_of_ok h ?_⟩
  simp [Entry.isActive, Entry.active?, hs]

theorem clearMisses_entriesOk (i : Slot) {s : State} (h : EntriesOk s) : EntriesOk (clearMisses i s) :=
  entriesOk_updEntry_same i _ h (fun _ => rfl) (fun _ => rfl) (fun _ => rfl) (fun _ => rfl)

theorem countMiss_entriesOk (i : Slot) {s : State} (h : EntriesOk s) (hr : (s.entry i).releaseOwed = false) :
    EntriesOk (countMiss i s) := by
  have hu : EntriesOk (s.updEntry i fun e => { e with missCount := e.missCount + 1 }) :=
    entriesOk_updEntry_same i _ h (fun _ => rfl) (fun _ => rfl) (fun _ => rfl) (fun _ => rfl)
  unfold countMiss
  split
  · exact enterLost_entriesOk i hu (by rw [entry_updEntry_same]; exact hr)
  · exact hu

theorem deliverCensus_entriesOk (i : Slot) (o : ExchangeOutcome) {s : State} (h : EntriesOk s)
    (hr : (s.entry i).releaseOwed = false) : EntriesOk (deliverCensus i o s) := by
  have hs : ∀ k d, EntriesOk (stopCensus i k d s) := fun k d =>
    entriesOk_congr (post_table _ _ _ _)
      (entriesOk_updEntry_same i _ h (fun _ => rfl) (fun _ => rfl) (fun _ => rfl) (fun _ => rfl))
  unfold deliverCensus
  repeat' split
  · exact enterNegotiating_entriesOk _ _ h hr
  · exact hs _ _
  · exact h
  · exact h
  · exact hs _ _
  · exact h

theorem setContext_entriesOk (i : Slot) (ctx : Context) {s : State} (h : EntriesOk s)
    (hr : (s.entry i).releaseOwed = false) (hh : (s.entry i).hold = 0)
    (hc : ctx.steps ≤ 20 ∧ (ctx.phase = .exchange → ctx.steps < 20)) : EntriesOk (setContext i ctx s) := by
  refine entriesOk_updEntry i _ h ?_ (Nat.le_refl _)
  intro _
  refine ⟨?_, ?_, ?_⟩
  · intro hx
    rw [hr] at hx
    cases hx
  · intro hx
    exact absurd hh hx
  · intro ctx' hc'
    cases hc'
    exact hc

theorem endStep_entriesOk (i : Slot) (ctx : Context) (b : Bool) {s : State} (h : EntriesOk s)
    (hr : (s.entry i).releaseOwed = false) (hh : (s.entry i).hold = 0) (hn : ctx.steps ≤ 20) :
    EntriesOk (endStep i ctx b s) := by
  unfold endStep
  repeat' split
  · exact enterFailed_entriesOk _ _ h hr hh
  · exact setContext_entriesOk _ _ h hr hh ⟨hn, fun hx => by cases hx⟩
  · exact enterFailed_entriesOk _ _ h hr hh
  · rename_i hl
    simp only [Config.stepLimit, Nat.not_le] at hl
    exact setContext_entriesOk _ _ h hr hh ⟨hn, fun _ => hl⟩

theorem keepPage_entriesOk (i : Slot) (p : Page) (b : Bool) {s : State} (h : EntriesOk s) :
    EntriesOk (keepPage i p b s) := by
  have hpool : 0 < s.poolFree → EntriesOk (s.updEntry i fun e => { e with pages := e.pages ++ [⟨p.kind, p.body, b⟩] }) := by
    intro hf
    refine ⟨fun j => ?_, ?_⟩
    · rw [entry_updEntry]
      split
      · exact h.1 i
      · exact h.1 j
    · have hs := pagesHeld_setEntry i { s.entry i with pages := (s.entry i).pages ++ [⟨p.kind, p.body, b⟩] } s
      rw [List.length_append, List.length_singleton] at hs
      unfold State.poolFree Config.poolPages at hf
      show (s.setEntry i { s.entry i with pages := (s.entry i).pages ++ [⟨p.kind, p.body, b⟩] }).pagesHeld ≤ 96
      omega
  have hdrop : EntriesOk (s.updEntry i fun e => { e with record := some e.negotiationRecord.drop }) :=
    entriesOk_updEntry_same i _ h (fun _ => rfl) (fun _ => rfl) (fun _ => rfl) (fun _ => rfl)
  unfold keepPage
  split
  · exact entriesOk_updEntry_same i _ h (fun _ => rfl) (fun _ => rfl) (fun _ => rfl) (fun _ => rfl)
  · split
    · exact hpool (by assumption)
    · exact hdrop
  · split
    · exact hpool (by assumption)
    · exact hdrop
  · exact h

theorem keepPage_flags (i : Slot) (p : Page) (b : Bool) (s : State) :
    ((keepPage i p b s).entry i).releaseOwed = (s.entry i).releaseOwed ∧
      ((keepPage i p b s).entry i).hold = (s.entry i).hold := by
  unfold keepPage
  repeat' split
  all_goals simp

theorem judgePage_entriesOk (i : Slot) (ctx : Context) (p : Page) (b : Bool) {s : State} (h : EntriesOk s)
    (hr : (s.entry i).releaseOwed = false) (hh : (s.entry i).hold = 0) (hn : ctx.steps ≤ 20) :
    EntriesOk (judgePage i ctx p b s) := by
  unfold judgePage
  split
  · exact enterFailed_entriesOk _ _ h hr hh
  · split
    · have hk := keepPage_flags i p (complyGiven s.px.accept ctx p) s
      exact endStep_entriesOk _ _ _ (keepPage_entriesOk _ _ _ h) (by rw [hk.1]; exact hr) (by rw [hk.2]; exact hh) hn
    · exact endStep_entriesOk _ _ _ h hr hh hn

@[simp] theorem advance_steps (px : PageExchange) (ctx : Context) (p : Page) :
    (px.advance ctx p).steps = ctx.steps := by
  unfold PageExchange.advance
  repeat' split
  all_goals rfl

theorem pageStep_entriesOk (i : Slot) (ctx : Context) (p : Page) {s : State} (h : EntriesOk s)
    (hr : (s.entry i).releaseOwed = false) (hh : (s.entry i).hold = 0) (hn : ctx.steps < 20) :
    EntriesOk (pageStep i ctx p s) := by
  have h1 : EntriesOk (s.updEntry i fun e => { e with record := some (s.px.recordComply ctx p e.negotiationRecord) }) :=
    entriesOk_updEntry_same i _ h (fun _ => rfl) (fun _ => rfl) (fun _ => rfl) (fun _ => rfl)
  unfold pageStep
  dsimp only
  split
  · exact enterFailed_entriesOk _ _ h1 (by rw [entry_updEntry_same]; exact hr) (by rw [entry_updEntry_same]; exact hh)
  · refine judgePage_entriesOk _ _ _ _ h1 (by rw [entry_updEntry_same]; exact hr)
      (by rw [entry_updEntry_same]; exact hh) ?_
    rw [advance_steps]
    show ctx.steps + 1 ≤ 20
    omega

theorem deliverPage_entriesOk (i : Slot) (o : ExchangeOutcome) {s : State} (h : EntriesOk s)
    (hp : ∀ ctx, (s.entry i).context? = some ctx → ctx.phase = .exchange) : EntriesOk (deliverPage i o s) := by
  unfold deliverPage
  split
  · exact h
  · rename_i ctx hc
    obtain ⟨hr, hh⟩ := notOwed_of_context (h.1 i) hc
    have hn := ((h.1 i).2.2 ctx (state_of_context hc)).2 (hp ctx hc)
    repeat' split
    · exact pageStep_entriesOk _ _ _ h hr hh hn
    · exact h
    · exact enterFailed_entriesOk _ _ h hr hh
    · exact enterFailed_entriesOk _ _ h hr hh

theorem deliverSettle_entriesOk (i : Slot) (o : ExchangeOutcome) {s : State} (h : EntriesOk s) :
    EntriesOk (deliverSettle i o s) := by
  unfold deliverSettle
  split
  · exact h
  · rename_i ctx hc
    obtain ⟨hr, hh⟩ := notOwed_of_context (h.1 i) hc
    repeat' split
    all_goals
      first
        | with_reducible exact h
        | with_reducible exact enterActive_entriesOk _ _ h hr
        | with_reducible exact enterFailed_entriesOk _ _ h hr hh

theorem setNextPoll_entriesOk (i : Slot) {s : State} (h : EntriesOk s) : EntriesOk (setNextPoll i s) :=
  entriesOk_updEntry i _ h (fun hk => updActive_ok _ hk) (by simp)

@[simp] theorem updActive_releaseOwed (f : ActiveData → ActiveData) (e : Entry) :
    (e.updActive f).releaseOwed = e.releaseOwed := by
  unfold Entry.updActive
  split <;> rfl

theorem applyStatus_entriesOk (i : Slot) (a : Byte) (r : StatusRecord) {s : State} (h : EntriesOk s) :
    EntriesOk (applyStatus i a r s) := by
  unfold applyStatus
  refine entriesOk_updEntry i _ (entriesOk_congr (postAlarm_table _ _ _ _) h) ?_ (by simp)
  intro hk
  exact updActive_ok (fun d => { d with alarmBaseline := r.alarm }) hk

theorem deliverPoll_entriesOk (i : Slot) (o : ExchangeOutcome) {s : State} (h : EntriesOk s) :
    EntriesOk (deliverPoll i o s) := by
  have h1 := setNextPoll_entriesOk i h
  unfold deliverPoll
  split
  · exact h
  · rename_i d hd
    have hr : ((setNextPoll i s).entry i).releaseOwed = false := by
      unfold setNextPoll
      rw [entry_updEntry_same, updActive_releaseOwed]
      refine notOwed_of_ok (h.1 i) ?_
      intro hv
      simp [Entry.active?, hv] at hd
    repeat' split
    · exact applyStatus_entriesOk _ _ _ (clearMisses_entriesOk i h1)
    · exact clearMisses_entriesOk i h1
    · exact countMiss_entriesOk i h1 hr
    · exact countMiss_entriesOk i h1 hr

theorem judgeHold_entriesOk (i : Slot) (n : BitVec 4) (l : List Byte) {s : State} (h : EntriesOk s)
    (ha : (s.entry i).isActive = true) : EntriesOk (judgeHold i n l s) := by
  unfold judgeHold
  split
  · exact entriesOk_congr (post_table _ _ _ _) (oweVerdict_entriesOk _ _ _ h)
  · refine oweVerdict_entriesOk _ _ _ (entriesOk_updEntry i _ h ?_ (Nat.le_refl _))
    intro hk
    exact ⟨hk.1, fun _ => ha, hk.2.2⟩

theorem judgeClass_entriesOk (i : Slot) (c : Byte) (n : BitVec 4) (l : List Byte) (b : Bool) {s : State}
    (h : EntriesOk s) (ha : (s.entry i).isActive = true) : EntriesOk (judgeClass i c n l b s) := by
  unfold judgeClass
  split
  · exact entriesOk_congr (by simp) h
  · split
    · exact judgeHold_entriesOk _ _ _ h ha
    · split
      · unfold judgeLateResult
        split
        · exact oweVerdict_entriesOk _ _ _ (completeOutstanding_entriesOk _ _ _ h)
        · exact entriesOk_congr (post_table _ _ _ _) (oweVerdict_entriesOk _ _ _ h)
      · split
        · exact oweVerdict_entriesOk _ _ _ h
        · exact entriesOk_congr (post_table _ _ _ _) (oweVerdict_entriesOk _ _ _ h)

theorem deliverFetch_entriesOk (i : Slot) (o : ExchangeOutcome) {s : State} (h : EntriesOk s) :
    EntriesOk (deliverFetch i o s) := by
  have h1 := clearMisses_entriesOk i h
  unfold deliverFetch
  split
  · rename_i ha
    obtain ⟨d, hd⟩ := state_of_isActive ha
    have hr : (s.entry i).releaseOwed = false := notOwed_of_ok (h.1 i) (by rw [hd]; intro hx; cases hx)
    split
    · rename_i n _ _
      have ha1 : ((clearMisses i s).entry i).isActive = true := by
        unfold clearMisses
        rw [entry_updEntry_same]
        exact ha
      unfold judgeMessage
      repeat' split
      · exact h1
      · exact oweVerdict_entriesOk _ _ _ h1
      · refine judgeClass_entriesOk _ _ _ _ _ ?_ ?_
        · exact entriesOk_updEntry_same i _ (entriesOk_congr (postGap_table _ _ _) h1) (fun _ => rfl) (fun _ => rfl)
            (fun _ => rfl) (fun _ => rfl)
        · rw [entry_updEntry_same, postGap_entry]
          exact ha1
    · exact entriesOk_updEntry_same i _ h1 (fun _ => rfl) (fun _ => rfl) (fun _ => rfl) (fun _ => rfl)
    · exact h1
    · exact countMiss_entriesOk i h hr
    · exact countMiss_entriesOk i h hr
  · exact h

theorem verdictCarried_entriesOk (i : Slot) {s : State} (h : EntriesOk s) : EntriesOk (verdictCarried i s) :=
  entriesOk_congr (freeDecided_table i (clearOwed i s)) (clearOwed_entriesOk i h)

theorem deliverVerdict_entriesOk (i : Slot) (o : ExchangeOutcome) {s : State} (h : EntriesOk s) :
    EntriesOk (deliverVerdict i o s) := by
  unfold deliverVerdict
  split
  · rename_i d hd
    have hr : (s.entry i).releaseOwed = false := notOwed_of_ok (h.1 i) (by rw [hd]; intro hx; cases hx)
    have hv := verdictCarried_entriesOk i (clearMisses_entriesOk i h)
    split
    · dsimp only
      split
      · refine renegotiate_entriesOk i 1 hv ?_
        unfold verdictCarried
        rw [entry_congr (freeDecided_table i _), clearOwed_entry]
        simp [clearMisses, hr]
      · exact hv
    · exact countMiss_entriesOk i h hr
    · exact countMiss_entriesOk i h hr
  · split
    · exact verdictCarried_entriesOk i h
    all_goals exact h
  all_goals exact h

theorem clearMissesIfActive_entriesOk (i : Slot) {s : State} (h : EntriesOk s) :
    EntriesOk (clearMissesIfActive i s) := by
  unfold clearMissesIfActive
  split
  · exact clearMisses_entriesOk i h
  · exact h

theorem countMissIfActive_entriesOk (i : Slot) {s : State} (h : EntriesOk s) :
    EntriesOk (countMissIfActive i s) := by
  unfold countMissIfActive
  split
  · rename_i ha
    obtain ⟨d, hd⟩ := state_of_isActive ha
    exact countMiss_entriesOk i h (notOwed_of_ok (h.1 i) (by rw [hd]; intro hx; cases hx))
  · exact h

theorem deliverCommand_entriesOk (i : Slot) (q : Bool) (o : ExchangeOutcome) {s : State} (h : EntriesOk s) :
    EntriesOk (deliverCommand i q o s) := by
  unfold deliverCommand
  split
  · exact h
  · split
    · exact entriesOk_congr rfl (clearMissesIfActive_entriesOk i h)
    · exact entriesOk_congr rfl (clearMissesIfActive_entriesOk i h)
    · unfold endWorking
      split
      · exact entriesOk_updActive i _ (entriesOk_congr (clearInFlight_table _) (clearMissesIfActive_entriesOk i h))
      · exact entriesOk_congr rfl (clearMissesIfActive_entriesOk i h)
    · exact h
    · exact countMissIfActive_entriesOk i (entriesOk_congr rfl h)
    · exact countMissIfActive_entriesOk i (entriesOk_congr rfl h)

theorem deliverRelease_entriesOk (i : Slot) {s : State} (h : EntriesOk s) : EntriesOk (deliverRelease i s) := by
  unfold deliverRelease
  split
  · refine entriesOk_updEntry i _ h ?_ (Nat.le_refl _)
    intro hk
    exact ⟨(by intro hx; cases hx), hk.2.1, hk.2.2⟩
  · exact h

theorem deliver_entriesOk (c : Call) (o : ExchangeOutcome) {s : State} (h : EntriesOk s)
    (hc : c.kind = .census → (s.entry c.slot).releaseOwed = false)
    (hp : c.kind = .page → ∀ ctx, (s.entry c.slot).context? = some ctx → ctx.phase = .exchange) :
    EntriesOk (deliver c o s) := by
  unfold deliver
  split
  · exact deliverCensus_entriesOk _ _ h (hc (by assumption))
  · exact deliverPage_entriesOk _ _ h (hp (by assumption))
  · exact deliverSettle_entriesOk _ _ h
  · exact deliverPoll_entriesOk _ _ h
  · exact deliverFetch_entriesOk _ _ h
  · exact deliverVerdict_entriesOk _ _ h
  · exact deliverCommand_entriesOk _ _ _ h
  · exact deliverRelease_entriesOk _ h

end Sys2Proof.Machine
end

