-- ==== Sys2Proof/Laws/Page.lean ====
section
/-! SUPPORT. What a PAGE step can do: its first half as FirstHalf says it, and the judging of the module's page after
it. -/

namespace Sys2Proof.Machine

/-! ## The first half -/

theorem setFlag_getLsbD (c : BitVec 8) (k : Nat) (hk : k < 8) (b : Bool) (n : Nat) (hn : n < 8) :
    (setFlag c k b).getLsbD n = if n = k then b else c.getLsbD n := by
  revert c b
  interval_cases k <;> interval_cases n <;> decide +kernel

/-- Where FirstHalf holds, the first half declines nothing and leaves just the context and the record FirstHalf names;
it does not touch the fields of the module's half. -/
theorem firstHalf_spec {px : PageExchange} {p : Page} {ctx a : Context} {r r1 : NegotiationRecord} (h : FirstHalf px p ctx a r r1) :
    px.declined ctx p = false ∧ px.recordComply ctx p r = r1 ∧
      px.advance { ctx with steps := ctx.steps + 1, fresh := false } p = { a with steps := ctx.steps + 1, fresh := false } ∧
      a.moduleToggle = ctx.moduleToggle ∧ a.finalSeen = ctx.finalSeen ∧ a.argsLeft = ctx.argsLeft ∧ a.ack = ctx.ack := by
  have hm2 : ∀ n : Nat, ackMatches { ctx with steps := n, fresh := false } p = ackMatches ctx p := fun n => rfl
  have ho2 : ∀ n : Nat, px.offered { ctx with steps := n, fresh := false } = px.offered ctx := fun n => rfl
  rcases h with ⟨h, rfl, rfl⟩ | ⟨hv, ht, h⟩
  · have hm : ackMatches a p = false := by unfold ackMatches; rcases h with h | h <;> simp [h]
    simp [PageExchange.declined, PageExchange.answered, hm, PageExchange.recordComply, PageExchange.advance, hm2]
  · have hm : ackMatches ctx p = true := by simp [ackMatches, hv, ht]
    rcases h with ⟨hd, rfl, rfl⟩ | ⟨l, hl, hd, hi, rfl, h⟩
    · have ho : px.offered ctx = none := by
        unfold PageExchange.offered; rw [if_neg]; rintro ⟨h1, h2⟩; rcases hd with hd | hd
        · simp [h1] at hd
        · omega
      refine ⟨?_, ?_, ?_, rfl, rfl, rfl, rfl⟩
      · simp [PageExchange.declined, PageExchange.answered, hm, ho]
      · simp [PageExchange.recordComply, PageExchange.answered, hm, ho]
      · unfold PageExchange.advance; rw [hm2, hm, ho2, ho]; rfl
    · have ho : px.offered ctx = some l := by unfold PageExchange.offered; rw [if_pos ⟨hd, hi⟩]; exact hl
      have h8 : ctx.localIndex < 8 := by
        by_contra hc
        rw [Vector.getElem?_eq_none (by omega)] at hl; cases hl
      have hadv : ∀ x : Context, px.advance { ctx with steps := ctx.steps + 1, fresh := false } p =
          { ctx with
              steps := ctx.steps + 1, fresh := false
              localIndex := ctx.localIndex + 1, localDone := decide (ctx.localIndex + 1 = px.count)
              localToggle := !ctx.localToggle } := by
        intro x; unfold PageExchange.advance; rw [hm2, hm, ho2, ho]; rfl
      rcases h with ⟨hk, rfl⟩ | ⟨hk, hq, hdr, hb⟩
      · have : ((some l).filter fun l => l.kind == PageKind.message) = none := by simp [Option.filter, hk]
        refine ⟨?_, ?_, hadv ctx, rfl, rfl, rfl, rfl⟩
        · simp only [PageExchange.declined, PageExchange.answered, hm, ho, this, if_true]
        · simp only [PageExchange.recordComply, PageExchange.answered, hm, ho, this, if_true]
      · have : ((some l).filter fun l => l.kind == PageKind.message) = some l := by simp [Option.filter, hk]
        refine ⟨?_, ?_, hadv ctx, rfl, rfl, rfl, rfl⟩
        · simp only [PageExchange.declined, PageExchange.answered, hm, ho, this, if_true]
          rcases hq with hq | hq <;> simp [hq]
        · simp only [PageExchange.recordComply, PageExchange.answered, hm, ho, this, if_true]
          cases r1; congr 1
          · exact hdr.symm
          · apply BitVec.eq_of_getLsbD_eq; intro n hn; rw [setFlag_getLsbD _ _ h8 _ _ hn]; exact (hb n hn).symm

/-- A step whose first half is FirstHalf judges the module's page on the context and the record that half leaves. -/
theorem pageStep_of_firstHalf {ctx a : Context} {p : Page} {k : Slot} {s : State} {r r1 : NegotiationRecord}
    (h : FirstHalf s.px p ctx a r r1) (hr : (s.entry k).record = some r) :
    pageStep k ctx p s =
      judgePage k { a with steps := ctx.steps + 1, fresh := false } p ctx.finalSeen
        (s.setEntry k { s.entry k with record := some r1 }) := by
  obtain ⟨h1, h2, h3, -⟩ := firstHalf_spec h
  unfold pageStep
  simp only [h1, h3, Bool.false_eq_true, if_false, State.updEntry]
  simp [Entry.negotiationRecord, hr, h2]

/-! ## The second half -/

theorem poolFree_setEntry (s : State) (k : Slot) (e : Entry) (h : e.pages = (s.entry k).pages) :
    (s.setEntry k e).poolFree = s.poolFree := by
  have := pagesHeld_setEntry k e s
  unfold State.poolFree; rw [h] at this; omega

theorem judgePage_accepted {k : Slot} {ctx : Context} {p : Page} {finalBefore : Bool} {s : State} {t : Bool}
    (hm : ctx.moduleToggle = some t) (hn : isNewPage ctx p = true) (ho : outOfOrder ctx p = false) :
    judgePage k ctx p finalBefore s =
      endStep k (acceptPage s.px.accept ctx p) finalBefore (keepPage k p (complyGiven s.px.accept ctx p) s) := by
  simp [judgePage, pageFault, hm, hn, ho]

theorem judgePage_outOfOrder {k : Slot} {ctx : Context} {p : Page} {finalBefore : Bool} {s : State} {t : Bool}
    (hm : ctx.moduleToggle = some t) (hn : isNewPage ctx p = true) (ho : outOfOrder ctx p = true) :
    judgePage k ctx p finalBefore s = enterFailed k .pageOrder s := by
  simp [judgePage, pageFault, hm, hn, ho]

theorem judgePage_repeated {k : Slot} {ctx : Context} {p : Page} {finalBefore : Bool} {s : State}
    (hm : ctx.moduleToggle = some p.toggle) : judgePage k ctx p finalBefore s = endStep k ctx finalBefore s := by
  simp [judgePage, pageFault, hm, isNewPage]

/-! ## The end of a step -/

theorem endStep_lt {k : Slot} {ctx : Context} {finalBefore : Bool} {s : State}
    (h : (ctx.localDone && finalBefore) = false) (hs : ctx.steps < 20) :
    endStep k ctx finalBefore s = s.setEntry k { s.entry k with state := .negotiating ctx } := by
  unfold endStep; rw [h]; simp only [Bool.false_eq_true, if_false]
  rw [if_neg (show ¬ Config.stepLimit ≤ ctx.steps from Nat.not_le.mpr hs)]; rfl

theorem endStep_limit {k : Slot} {ctx : Context} {finalBefore : Bool} {s : State}
    (h : (ctx.localDone && finalBefore) = false) (hs : ctx.steps = 20) :
    endStep k ctx finalBefore s = enterFailed k .stepLimit s := by
  unfold endStep; rw [h]; simp [Config.stepLimit, hs]

theorem endStep_complete {k : Slot} {ctx : Context} {s : State} (h : ctx.localDone = true) :
    endStep k ctx true s =
      match s.resolve (s.entry k) with
      | .error f => enterFailed k f s
      | .ok p => setContext k { ctx with phase := .settle p } s := by
  unfold endStep; rw [h]; rfl

end Sys2Proof.Machine
end

