-- ==== Sys2Proof/Laws/Records.lean ====
section
/-! SUPPORT. The records of the register window byte by byte: what each field of a MODULE record reads, present and
absent (Table 10-4). -/

namespace Sys2Proof.Machine

/-! ## Fields of a fixed size -/

@[simp] theorem length_padded (n : Nat) (l : List Byte) : (padded n l).length = n := by
  simp [padded]

@[simp] theorem length_optional (n : Nat) (l : Option (List Byte)) : (optional n l).length = n := by
  simp [optional]

theorem getD_padded {n k : Nat} (h : k < n) (l : List Byte) : (padded n l).getD k 0 = l.getD k 0 := by
  simp only [padded, List.getD_eq_getElem?_getD, List.getElem?_take_of_lt h, List.getElem?_append]
  split
  · rfl
  · rename_i hk
    rw [List.getElem?_eq_none (Nat.not_lt.mp hk), List.getElem?_replicate]
    split <;> rfl

/-- A present field reads its bytes. -/
theorem getD_optional_some {n k : Nat} (h : k < n) (l : List Byte) : (optional n (some l)).getD k 0 = l.getD k 0 :=
  getD_padded h l

/-- An absent field reads 0 in every byte. -/
theorem getD_optional_none {n k : Nat} (h : k < n) : (optional n none).getD k 0 = 0 := getD_padded h []

/-! ## Reading a record made of fields one after another -/

theorem getD_append_in {a b : List Byte} {k : Nat} (h : k < a.length) : (a ++ b).getD k 0 = a.getD k 0 := by
  simp [List.getD_eq_getElem?_getD, List.getElem?_append_left h]

theorem getD_append_at {a b : List Byte} {m k : Nat} (h : a.length + k = m) : (a ++ b).getD m 0 = b.getD k 0 := by
  subst h
  simp [List.getD_eq_getElem?_getD, List.getElem?_append_right]

theorem Entry.length_bytes (e : Entry) : e.bytes.length = 96 := by
  simp [Entry.bytes]

/-- The optional fields of a MODULE record, each at its offset. -/
theorem Entry.getD_bytes_optional (e : Entry) (k : Nat) :
    (k < 3 → e.bytes.getD (7 + k) 0 =
      (optional 3 (e.basePage.map fun b => [b.b0, b.b1, b.b2])).getD k 0) ∧
    (k < 2 → e.bytes.getD (11 + k) 0 =
      (optional 2 (e.record.map fun r => [r.dropped, r.comply])).getD k 0) ∧
    (k < 4 → e.bytes.getD (14 + k) 0 =
      (optional 4
      (e.active?.map fun d => [profileByte d.profile, lowByte d.nextDue, highByte d.nextDue, d.standing.code])).getD k 0) ∧
    (k < 7 → e.bytes.getD (22 + k) 0 =
      (optional 7 (e.status.map StatusRecord.bytes)).getD k 0) ∧
    (k < 1 → e.bytes.getD (29 + k) 0 =
      (optional 1 (e.lastNumber.map fun n => [n.setWidth 8])).getD k 0) ∧
    (k < 3 → e.bytes.getD (30 + k) 0 =
      (optional 3 (e.lastVerdict.map Verdict.bytes)).getD k 0) ∧
    (k < 3 → e.bytes.getD (33 + k) 0 =
      (optional 3 (e.verdictOwed.map fun v => v.verdict.bytes)).getD k 0) ∧
    (k < 7 → e.bytes.getD (36 + k) 0 =
      (optional 7 (e.context?.map Context.bytes)).getD k 0) ∧
    (k < 30 → e.bytes.getD (43 + k) 0 =
      (optional 30 (e.outstanding?.map Outstanding.bytes)).getD k 0) ∧
    (k < 2 → e.bytes.getD (73 + k) 0 =
      (optional 2 (e.active?.map fun d => [d.period, d.alarmBaseline])).getD k 0) := by
  unfold Entry.bytes
  refine ⟨fun h => ?_, fun h => ?_, fun h => ?_, fun h => ?_, fun h => ?_, fun h => ?_, fun h => ?_, fun h => ?_, fun h => ?_, fun h => ?_⟩
  all_goals
    repeat rw [getD_append_in (by simp; omega)]
    rw [getD_append_at (k := k) (by simp)]

/-- The fields of a MODULE record that are always there, and the bytes past the last field. -/
theorem Entry.getD_bytes_fixed (e : Entry) :
    e.bytes.getD 0 0 = e.state.code ∧ e.bytes.getD 1 0 = e.presence1 ∧ e.bytes.getD 2 0 = e.presence2 ∧
      e.bytes.getD 3 0 = byteOfBool e.censusEnable ∧ e.bytes.getD 4 0 = e.pollPeriod ∧
      e.bytes.getD 5 0 = byteOfBool e.releaseOwed ∧ e.bytes.getD 6 0 = (e.cls.getD 0).setWidth 8 ∧
      e.bytes.getD 10 0 = byteOfNat e.pages.length ∧
      e.bytes.getD 13 0 = (match e.state with
        | .failed f => f.code
        | .vacant | .negotiating _ | .active _ | .lost => 0) ∧
      e.bytes.getD 18 0 = byteOfNat e.missCount ∧ e.bytes.getD 19 0 = byteOfBool e.fetchWanted ∧
      e.bytes.getD 20 0 = e.hold ∧ e.bytes.getD 21 0 = byteOfBool e.seqBit ∧
      ∀ k, 75 ≤ k → e.bytes.getD k 0 = 0 := by
  unfold Entry.bytes
  refine ⟨?_, ?_, ?_, ?_, ?_, ?_, ?_, ?_, ?_, ?_, ?_, ?_, ?_, fun k hk => ?_⟩
  on_goal 14 =>
    obtain ⟨j, rfl⟩ := Nat.exists_eq_add_of_le hk
    rw [getD_append_at (k := j) (by simp)]
    simp only [List.getD_eq_getElem?_getD, List.getElem?_replicate]
    split <;> rfl
  all_goals
    repeat rw [getD_append_in (by simp only [List.length_append, length_optional, List.length_cons, List.length_nil]; omega)]
  all_goals first
    | rfl
    | (rw [getD_append_at (k := 0) (by simp)]; rfl)
    | (rw [getD_append_at (k := 1) (by simp)]; rfl)
    | (rw [getD_append_at (k := 2) (by simp)]; rfl)
    | (rw [getD_append_at (k := 3) (by simp)]; rfl)

end Sys2Proof.Machine
end

