-- ==== Sys2Proof/Tests/Slice0.lean ====
section
/-! SUPPORT. Small tests of the model: the smoke of WellFormed, values the spec works out, one-step tests, and for every
statement with hypotheses a state that meets them. -/

namespace Sys2Proof.Tests

open Sys2Proof Sys2Proof.Machine

-- Small kernel evaluations one after another, not all at once: their threads together would take too much memory.
set_option Elab.async false

/-! ## States the tests start from -/

/-- The reset state with the link engine changed. -/
def linkS (f : LinkEngine → LinkEngine) : State := { State.reset with link := f State.reset.link }

/-- The engine in a state, with an activity. -/
def inState (l : LinkState) (a : Activity) : State := linkS fun x => { x with state := l, activity := a }

/-- The engine in IDLE. -/
def idle : State := inState .idle .quiet

/-- An ACTIVE entry of class 4 at profile P3, just entered. -/
def active : Entry :=
  { Entry.reset with state := .active (ActiveData.initial 3 0 20), cls := some 4, record := some ⟨0, 0⟩ }

/-- An ACTIVE entry with a poll standing. -/
def activeAt (t : Standing) : Entry :=
  { active with state := .active { ActiveData.initial 3 0 20 with standing := t } }

/-- A NEGOTIATING entry of class 4. -/
def negotiating (ctx : Context) : Entry :=
  { Entry.reset with
    state := .negotiating ctx, cls := some 4, record := some ⟨0, 0⟩, basePage := some ⟨0x3C, 4, 0, 0⟩ }

/-- A FAILED entry. -/
def failed : Entry := { Entry.reset with state := .failed .silent, cls := some 4, record := some ⟨0, 0⟩ }

/-- A LOST entry. -/
def lost : Entry := { Entry.reset with state := .lost, cls := some 4, missCount := 3 }

/-- A call of a kind to slot 7, which is index 6. -/
def call (cls : SchedClass) (kind : CallKind) : Call := callTo cls kind 6 []

/-- The engine receiving the reply to a call, on an attempt. -/
def receiving (c : Call) (attempt : Nat) (s : State) : State :=
  { s with link := { s.link with state := .receiving, activity := .receiving, current := some c, attempt := attempt } }

/-- The engine waiting for the reply to a call, on an attempt. -/
def waiting (c : Call) (attempt : Nat) (s : State) : State :=
  { s with link := { s.link with state := .waiting, activity := .awaiting, current := some c, attempt := attempt } }

/-- The reply frame of a kind and payload that answers a call. -/
def answer (c : Call) (seq : Bool) (kind : BitVec 4) (payload : List Byte) : List Byte :=
  frame c.address seq true kind payload

/-- ARG0 to ARG3 loaded. -/
def args (a b c d : Byte) (s : State) : State := { s with win := { s.win with args := ⟨#[a, b, c, d], rfl⟩ } }

/-- An area, index and offset selected. -/
def select (a : Area) (index : Byte) (offset : Nat) (s : State) : State :=
  { s with win := { s.win with area := a, widx := index, offset := offset } }

/-- The staged record's target, length and deadline. -/
def staged (target length : Byte) (deadline : BitVec 16) : State :=
  { State.reset with win :=
    { State.reset.win with
      staging := { State.reset.win.staging with target := target, length := length, deadline := deadline } } }

/-- A held command with tag 9 to slot 7. -/
def held (place : Nat) (remaining : Option Nat) : HeldCommand := ⟨⟨6, 0x11, 9, [1, 2], 50⟩, place, remaining⟩

/-- A completion record. -/
def record : Completion := ⟨1, 2, 3, .ok, 0, [4]⟩

/-- A notice. -/
def notice : Notice := ⟨.moduleFound, 7, 4, 0x1234⟩

/-- Thirty-two notices. -/
def fullNotices (lost : Nat) : State :=
  { State.reset with nq := ⟨List.replicate 32 notice, lost⟩ }

/-- A deferred entry of slot 7 on handle 2. -/
def deferred (decision : Option Decision) (reached : Bool) : Deferred := ⟨2, 6, 20, 5, [1], decision, 250, reached⟩

/-- A state whose deferred queue holds entries, with handle 2 at generation 3. -/
def deferring (l : List Deferred) (cause : EndCause) (s : State) : State :=
  { s with mu := { s.mu with queue := l, handles := s.mu.handles.set 2 ⟨3, cause⟩ } }

/-- The page a module sends first. -/
def basePage (more : Bool) : Page := ⟨.base, more, false, false, false, false, false, ⟨0x3C, 4, 0, 0⟩⟩

/-! ## How an exchange is seen to end -/

/-- REPLY_FRAME_END as bytes sent without an error on the line bring it. -/
def framed (bytes : List Byte) : Instr := .replyFrameEnd (serial (bytes.headD 0)) (bytes.tail.map serial)

theorem ends_reply {c : Call} {bytes : List Byte} {r : Reply} {q : Bool} {s : State} (hr : s.Running)
    (hc : s.link.current = some c) (hx : s.exchangeIn .receiving .receiving = true)
    (hk : classify c bytes false = .reply r q) :
    ExchangeEnds (framed bytes) c (.reply r q) s := by
  refine ⟨⟨hr, hc, Or.inl ⟨_, _, rfl, hx, ?_⟩⟩, fun h => ?_⟩
  · cases bytes with
    | nil => exact ExchangeOutcome.noConfusion hk
    | cons b rest =>
      show classify c (receivedBytes ((b :: rest).map serial)) (anyFramingError ((b :: rest).map serial)) = _
      rw [receivedBytes_serial, anyFramingError_serial]; exact hk
  · rcases h.1 with h | h
    · exact ExchangeOutcome.noConfusion h
    · exact ExchangeOutcome.noConfusion h

theorem ends_silence {c : Call} {s : State} (hr : s.Running) (hc : s.link.current = some c)
    (hx : s.exchangeIn .waiting .awaiting = true) (hn : ¬ Retried c .silence s.link) :
    ExchangeEnds .replyWindowExpiry c .silence s :=
  ⟨⟨hr, hc, Or.inr (Or.inl ⟨rfl, hx, rfl⟩)⟩, hn⟩

theorem ends_garble {c : Call} {s : State} (hr : s.Running) (hc : s.link.current = some c)
    (hx : s.exchangeIn .receiving .receiving = true) (hn : ¬ Retried c .garble s.link) :
    ExchangeEnds .receptionLimit c .garble s :=
  ⟨⟨hr, hc, Or.inr (Or.inr ⟨rfl, hx, rfl⟩)⟩, hn⟩

/-! ## WellFormed refuses each ill-formed operand -/

theorem test_wf_unknownAction_known_code : (Instr.unknownAction 0x01).wellFormed = false := by decide
theorem test_wf_unknownAction_other_code : (Instr.unknownAction 0x00).wellFormed = true := by decide
theorem test_wf_registerWrite_lctl : (Instr.registerWrite 0x00 1).wellFormed = false := by decide
theorem test_wf_registerWrite_lsta : (Instr.registerWrite 0x01 0x80).wellFormed = false ∧
    (Instr.registerWrite 0x01 0x7F).wellFormed = true := by decide
theorem test_wf_registerWrite_arg0 : (Instr.registerWrite 0x06 1).wellFormed = true := by decide
theorem test_wf_lineFault_no_bit : (Instr.lineFault (.echo 380 .low)).wellFormed = false ∧
    (Instr.lineFault (.echo 379 .low)).wellFormed = true := by decide
theorem test_wf_replyFrameEnd_noise : (Instr.replyFrameEnd 0x3FF [0]).wellFormed = false ∧
    (Instr.replyFrameEnd 0 [0x3FF]).wellFormed = true := by decide
theorem test_wf_replyFrameEnd_long : (Instr.replyFrameEnd 0 (List.replicate 46 0)).wellFormed = false ∧
    (Instr.replyFrameEnd 0 (List.replicate 45 0)).wellFormed = true := by decide

/-! ## Values the spec works out -/

/-- Chapter 10: a POLL to slot 7. -/
theorem test_poll_frame : (call .duePoll .poll).frame = [0xC3, 0x07, 0x04, 0x00, 0xC8, 0x85] := by decide +kernel

/-- R85: the broadcast RELEASE goes to address 31 with sequence bit 0 and no payload. -/
theorem test_broadcast_frame : broadcastFrame = [0xC3, 0x1F, 0x08, 0x00, 0x67, 0x2A] := by decide +kernel

/-- Section 2.8.1: masks 0x3C and 0x0E with the filters 0xFF, 0xF7 and 0xF3. -/
theorem test_resolution :
    highestProfile (0x3C &&& 0x0E &&& 0xFF) = some 3 ∧ highestProfile (0x3C &&& 0x0E &&& 0xF7) = some 2 ∧
      highestProfile (0x3C &&& 0x0E &&& 0xF3) = none := by decide

/-- Table 3-3: the limits of the reply payloads. -/
theorem test_permitted :
    permittedReply .census 1 [7, 15] = some (.hello 7 15) ∧ permittedReply .census 1 [7, 16] = none ∧
      permittedReply .poll 4 [0, 0, 15, 0, 0, 0, 0] = some (.status ⟨0, 0, 15, 0, 0, 0, 0⟩) ∧
      permittedReply .poll 4 [0, 0, 16, 0, 0, 0, 0] = none ∧ permittedReply .fetch 6 [] = some .empty ∧
      permittedReply .fetch 5 [20, 15, 1, 9] = some (.message 20 15 [9]) ∧
      permittedReply .fetch 5 [20, 15, 2, 9] = none ∧ permittedReply .command 9 [0] = none ∧
      permittedReply .command 9 [1] = some (.refused 1) ∧ permittedReply .poll 3 [] = none := by decide

/-- Table 10-3: the control byte. -/
theorem test_control : (basePage true).control = 0x04 ∧
    pageOfBytes 0x04 0x3C 4 0 0 = basePage true := by decide

/-! ## One step of the commands -/

/-- R172: the reads return what the registers hold after reset. -/
theorem test_reads_after_reset :
    State.reset.readRegister 0x00 = 1 ∧ State.reset.readRegister 0x01 = 0 ∧ State.reset.readRegister 0x12 = 0xFF ∧
      State.reset.readRegister 0x13 = 96 ∧ State.reset.readRegister 0x3F = 0 := by decide +kernel

/-- R82, R186: LFLTN low at ENABLE_LINK, with the list of one BASE page. -/
theorem test_enable_low :
    let s := { State.reset with px :=
      { State.reset.px with count := 1, pages := State.reset.px.pages.set 0 ⟨.base, ⟨0x0E, 0, 0, 0⟩, false⟩ } }
    (enableLink .low s).1.link.state = .fault ∧ (enableLink .low s).1.nq.notices = [⟨.lineFault, 0, 0, 0⟩] := by
  decide +kernel

/-- R74: after the second failed attempt with retry limit 2 there is a third, and after the third none (Table 3-4). -/
theorem test_retries :
    retries (call .duePoll .poll) 2 2 .silence = true ∧ retries (call .duePoll .poll) 3 2 .silence = false ∧
      retries (call .census .census) 1 0 .garble = true ∧ retries (call .census .census) 2 7 .garble = false ∧
      retries (call .census .census) 1 7 .silence = false := by decide

/-- R89: the standing advances at next poll due and at next poll due plus the period in force, across the wrap. -/
theorem test_standing :
    let d := { ActiveData.initial 3 0xFFFE 20 with standing := .notDue }
    (d.tickPoll 0xFFFE).takeDue.standing = .due ∧ (d.tickPoll 0xFFFF).takeDue.standing = .notDue ∧
      (((d.tickPoll 0xFFFE).takeDue).tickPoll 18).takeOverdue.standing = .overdue := by decide

/-- R164, R165: a notice posted to a full queue is counted, and the pop refills the place. -/
theorem test_overflow :
    (post .lineFault 0 0 (fullNotices 0)).nq.lost = 1 ∧ (post .lineFault 0 0 (fullNotices 255)).nq.lost = 255 ∧
      (popNotice (fullNotices 3)).1.nq.notices.getLast? = some ⟨.noticesLost, 0, 3, 0⟩ := by decide +kernel

/-- R178: WOFF reaches 255 and WDAT steps beyond it, up to 1023. -/
theorem test_offset :
    (stepOffset (writeWoff 0xFF State.reset)).win.offset = 256 ∧
      (stepOffset (select .module 0 1023 State.reset)).win.offset = 1023 := by decide

/-- Table 10-4: bytes of an ACTIVE entry's MODULE record. -/
theorem test_module_record :
    active.bytes.length = 96 ∧ active.bytes.getD 0 0 = 2 ∧ active.bytes.getD 1 0 = 0x11 ∧
      active.bytes.getD 4 0 = 20 ∧ active.bytes.getD 6 0 = 4 ∧ active.bytes.getD 14 0 = 3 ∧
      active.bytes.getD 17 0 = 1 ∧ active.bytes.getD 73 0 = 20 := by decide +kernel

/-- Table 10-6: a DEFERRED record that is OPEN, and one of a free handle. -/
theorem test_deferred_record :
    ((deferring [deferred none false] .none State.reset).deferredBytes 2).take 13 =
        [2, 3, 1, 0, 7, 20, 5, 1, 0, 0, 0, 250, 0] ∧
      ((deferring [] .gone State.reset).deferredBytes 2).take 5 = [0, 3, 0, 3, 0] := by decide +kernel

/-! ## The hypotheses of the statements are met -/

theorem test_witness_low : ∃ s : State, s.pins.resetn = .low :=
  ⟨{ State.reset with pins := { State.reset.pins with resetn := .low } }, rfl⟩

theorem test_witness_running : State.reset.Running ∧ idle.Running ∧ State.reset.pending = [] := by decide

theorem test_witness_UnknownActionResult :
    (0x00 : Byte) ∉ actionCodes ∧ (0xFF : Byte) ∉ actionCodes ∧ (0x04 : Byte) ∉ actionCodes := by decide

theorem test_witness_WindowKept :
    isEvent .callChoice = true ∧ actCode .detach = some 0x30 ∧ actCode (.unknownAction 5) = some 5 := by decide

/-- Codes 3, 1 (held), 0 and 2 (others), in OFF and elsewhere. -/
theorem test_witness_LctlAndLsta :
    (0x7F : BitVec 7).extractLsb' 0 2 = 3#2 ∧ (0x7D : BitVec 7).extractLsb' 0 2 = State.reset.link.rate ∧
      (0x00 : BitVec 7).extractLsb' 0 2 ≠ State.reset.link.rate ∧
      (0x02 : BitVec 7).extractLsb' 0 2 ≠ State.reset.link.rate ∧ State.reset.link.state = .off ∧
      idle.link.state ≠ .off := by decide

theorem test_witness_WindowSelectionAndCopies :
    10 ≤ (10 : Byte).toNat ∧ (9 : Byte).toNat < 10 ∧ 30 < (31 : Byte).toNat ∧ 8 ≤ (8 : Byte).toNat ∧
      (∀ d ∈ State.reset.mu.queue, d.handle ≠ 7) ∧
      (deferring [deferred none false] .none State.reset).deferredAt 2 = some (deferred none false) := by decide

theorem test_witness_WdatRead :
    let s := { State.reset with ce := { State.reset.ce with completions := [record] }, nq := ⟨[notice], 0⟩ }
    (select .notice 0 0 s).nq.notices = [notice] ∧ (select .completion 0 0 s).ce.completions = [record] ∧
      record.data.length ≤ 24 ∧ (select .localPage 7 0 s).win.widx.toNat < 8 ∧
      8 ≤ (select .localPage 8 0 s).win.widx.toNat ∧ (select .notice 0 5 s).windowByte = 0 ∧
      (select .notice 0 4 s).windowByte = 0x12 := by decide

/-- Every refused write of Table 8-4 at the edge of its range is one the window turns away. -/
theorem test_witness_WdatWriteRefused :
    let s := State.reset
    writeArea 1 (select .pages 1 0 s) = none ∧ writeArea 1 (select .module 0 3 s) = none ∧
      writeArea 1 (select .module 31 4 s) = none ∧ writeArea 2 (select .module 1 3 s) = none ∧
      writeArea 0 (select .module 1 4 s) = none ∧ writeArea 1 (select .module 1 2 s) = none ∧
      writeArea 1 (select .module 1 5 s) = none ∧ writeArea 4 (select .localPage 0 0 s) = none ∧
      writeArea 2 (select .localPage 0 5 s) = none ∧ writeArea 0 (select .localPage 0 6 s) = none ∧
      writeArea 0 (select .localPage 8 0 s) = none ∧ writeArea 0 (select .localPage 0 0 idle) = none ∧
      writeArea 2 (select .accept 0 255 s) = none ∧ writeArea 1 (select .accept 0 256 s) = none ∧
      writeArea 1 (select .classFilter 0 16 s) = none ∧ writeArea 1 (select .staging 0 30 s) = none ∧
      writeArea 4 (select .params 0 0 s) = none ∧ writeArea 8 (select .params 0 1 s) = none ∧
      writeArea 0 (select .params 0 2 s) = none ∧ writeArea 16 (select .params 0 2 s) = none ∧
      writeArea 0 (select .params 0 3 s) = none ∧ writeArea 0 (select .params 0 4 s) = none ∧
      writeArea 9 (select .params 0 5 s) = none ∧ writeArea 0 (select .params 0 5 idle) = none ∧
      writeArea 0 (select .params 0 6 s) = none := by decide +kernel

/-- Every taken write at the edge of its range. -/
theorem test_witness_WdatWriteParamsAndModule :
    let s := State.reset
    (writeArea 5 (select .params 0 0 s)).map (fun t => t.link.replyWindow) = some 5 ∧
      (writeArea 7 (select .params 0 1 s)).map (fun t => t.link.retryLimit) = some 7 ∧
      (writeArea 1 (select .params 0 2 s)).map (fun t => t.sched.missLimit) = some 1 ∧
      (writeArea 15 (select .params 0 2 s)).map (fun t => t.sched.missLimit) = some 15 ∧
      (writeArea 255 (select .params 0 3 s)).map (fun t => t.sched.censusInterval) = some 255 ∧
      (writeArea 1 (select .params 0 4 s)).map (fun t => t.mu.timeout) = some 1 ∧
      (writeArea 8 (select .params 0 5 s)).map (fun t => t.px.count) = some 8 ∧
      (writeArea 1 (select .module 30 3 s)).map (fun t => (t.entry 29).censusEnable) = some true ∧
      (writeArea 255 (select .module 1 4 s)).map (fun t => (t.entry 0).pollPeriod) = some 255 ∧
      (1 : Byte) = slotByte 0 ∧ (30 : Byte) = slotByte 29 := by decide +kernel

theorem test_witness_WdatWriteStores :
    let s := State.reset
    (writeArea 3 (select .localPage 7 0 s)).map (fun t => t.px.pages[7].kind) = some .null ∧
      (writeArea 9 (select .localPage 7 4 s)).map (fun t => t.px.pages[7].body.b3) = some 9 ∧
      (writeArea 1 (select .localPage 7 5 s)).map (fun t => t.px.pages[7].required) = some true ∧
      (writeArea 1 (select .accept 0 255 s)).map (fun t => t.px.accept.getLsbD 255) = some true ∧
      (writeArea 0xF7 (select .classFilter 0 15 s)).map (fun t => t.px.filter[15]) = some 0xF7 ∧
      (writeArea 6 (select .staging 0 29 s)).map (fun t => t.win.staging.payload[23]) = some 6 ∧
      (writeArea 0x10 (select .staging 0 5 s)).map (fun t => t.win.staging.deadline) = some 0x1000 := by decide +kernel

/-- Addresses and values at the edge of their ranges, and an OPEN entry behind a DECIDED one. -/
theorem test_witness_MscountReadAndPlainWrites :
    0x0E ≤ (0x0E : BitVec 6).toNat ∧ 0x16 ≤ (0x16 : BitVec 6).toNat ∧ (0x7F : Byte).msb = false ∧
      (let s := deferring
        [{ deferred (some ⟨.accept, 0, .software⟩) false with handle := 5, slot := 3 }, deferred none false] .none
          State.reset
       s.readRegister 0x12 = 0x1A ∧ s.readRegister 0x11 = 2) := by decide +kernel

theorem test_witness_NoticesPostedAndPopped :
    State.reset.nq.notices.length < 32 ∧ 32 ≤ (fullNotices 0).nq.notices.length ∧ State.reset.nq.notices = [] ∧
      (fullNotices 0).nq.notices = notice :: List.replicate 31 notice ∧ (fullNotices 0).nq.lost = 0 ∧
      0 < (fullNotices 1).nq.lost := by decide

/-- Targets 0, 1, 30 and 31, lengths 24 and 25, deadlines 4095 and 4096, and a full queue. -/
theorem test_witness_Submit :
    (staged 0 0 0).checkStaged = .error .badTarget ∧ (staged 31 0 0).checkStaged = .error .badTarget ∧
      (staged 1 25 0).checkStaged = .error .badLength ∧ (staged 30 24 4096).checkStaged = .error .badDeadline ∧
      (staged 30 24 4095).checkStaged = .ok 29 ∧
      ({ staged 30 24 4095 with ce :=
        { State.reset.ce with queue := List.replicate 16 ⟨held 0 none, none⟩ } } : State).checkStaged =
          .error .queueFull := ⟨rfl, rfl, rfl, rfl, rfl, rfl⟩

/-- A state that holds commands with tag 9 in all three phases, the queued one at place q, the others later. -/
def holding (q f o : Nat) : State :=
  { (args 9 0 0 0 State.reset).setEntry 6
      { active with state := .active { ActiveData.initial 3 0 20 with outstanding := some ⟨held o (some 0), true⟩ } } with
    ce :=
      { State.reset.ce with
        queue := [⟨held q (some 0), none⟩], inFlight := some ⟨held f (some 0), []⟩, completions := [record] } }

theorem test_witness_Cancel :
    (holding 1 2 3).findTag 9 = some (.queued ⟨held 1 (some 0), none⟩) ∧
      (holding 2 1 3).findTag 9 = some (.inFlight ⟨held 1 (some 0), []⟩) ∧
      (holding 3 2 1).findTag 9 = some (.outstanding 6 ⟨held 1 (some 0), true⟩) ∧
      (holding 1 2 3).findTag 8 = none ∧ (holding 1 2 3).heldCommands.length = 3 := by decide +kernel

theorem test_witness_SettlingAndPopCompletion :
    (holding 1 2 3).ce.completions = [record] ∧ State.reset.ce.completions = [] ∧
      (holding 1 2 3).ce.queue.all (fun q => q.settled.isNone) = true ∧
      ({ holding 1 2 3 with ce :=
        { (holding 1 2 3).ce with
          queue := [⟨held 1 none, some .cancelled⟩], completions := List.replicate 14 record } } : State).reservation =
        16 := by decide +kernel

/-- All three phases expire together: the outstanding command's record comes first; and without room the settled ones
stay, each with its own status; with room for one, the first leaves. -/
theorem test_expiry :
    (expireCommands (holding 1 2 3)).ce.completions.map (fun c => c.status) = [.ok, .expired, .expired] ∧
      (expireCommands (holding 1 2 3)).ce.inFlight = some ⟨held 2 (some 0), [.expired]⟩ ∧
      (expireCommands (holding 1 2 3)).ce.queue = [] ∧
      (expireCommands { holding 1 2 3 with ce :=
        { (holding 1 2 3).ce with
          queue := [⟨held 1 (some 0), none⟩, ⟨held 4 (some 0), some .cancelled⟩]
          completions := List.replicate 14 record } }).ce.queue =
        [⟨held 1 (some 0), some .expired⟩, ⟨held 4 (some 0), some .cancelled⟩] ∧
      (expireCommands { holding 1 2 3 with ce :=
        { (holding 1 2 3).ce with
          queue := [⟨held 1 (some 0), none⟩, ⟨held 4 (some 0), some .cancelled⟩]
          completions := List.replicate 13 record } }).ce.queue = [⟨held 4 (some 0), some .cancelled⟩] := by decide +kernel

/-- IDLE, with a command queued to the ACTIVE slot 7 whose poll is DUE. -/
def starting : State :=
  { idle.setEntry 6 active with ce := { State.reset.ce with queue := [⟨held 0 (some 50), none⟩] } }

theorem test_witness_CommandStart :
    starting.Running ∧ starting.link.state = .idle ∧ starting.link.stopPending = false ∧
      (∀ i, (starting.entry i).releaseOwed = false ∧ (starting.entry i).context? = none ∧
        (starting.entry i).standingIs .overdue = false) ∧
      (∀ i ∈ starting.sched.owed, (starting.entry i).active? = none) ∧
      starting.ce.queue = [] ++ ⟨held 0 (some 50), none⟩ :: [] ∧
      (starting.entry 6).active? = some (ActiveData.initial 3 0 20) ∧ (starting.entry 6).hold = 0 ∧
      (starting.entry 6).verdictOwed = none ∧ starting.reservation < 16 := by decide +kernel

theorem test_command_start :
    (chooseCall starting).link.state = .sending ∧ (chooseCall starting).ce.queue = [] ∧
      (chooseCall starting).link.current.map Call.frame = some (frame 7 true false 7 [0x11, 2, 1, 2]) := by
  decide +kernel

/-- The engine receives the reply to the COMMAND in flight to slot 7, whose entry is given. -/
def commanding (e : Entry) (marks : List EndMark) : State :=
  let s := receiving (call .command .command) 1 (State.reset.setEntry 6 e)
  { s with ce := { s.ce with inFlight := some ⟨held 0 (some 50), marks⟩ } }

theorem test_witness_CommandExchangeEnd :
    (∃ i, ExchangeEnds i (call .command .command) (.reply .working false) (commanding active [])) ∧
      (∃ i, ExchangeEnds i (call .command .command) (.reply (.result []) false) (commanding active [])) ∧
      (∃ i, ExchangeEnds i (call .command .command) (.reply (.refused 1) false) (commanding active [.cancel])) ∧
      (∃ i, ExchangeEnds i (call .command .command) (.reply .working false) (commanding lost [])) ∧
      (∃ i, ExchangeEnds i (call .command .command) (.reply .working false)
        (commanding (negotiating Context.initial) [])) ∧
      (∃ i, ExchangeEnds i (call .command .command) .silence (waiting (call .command .command) 3 (commanding active []))) ∧
      (∃ i, ExchangeEnds i (call .command .command) .garble
        (receiving (call .command .command) 3 (commanding lost [.expired]))) :=
  ⟨⟨_, ends_reply (bytes := answer (call .command .command) false 8 []) rfl rfl rfl (by decide +kernel)⟩,
   ⟨_, ends_reply (bytes := answer (call .command .command) false 7 []) rfl rfl rfl (by decide +kernel)⟩,
   ⟨_, ends_reply (bytes := answer (call .command .command) false 9 [1]) rfl rfl rfl (by decide +kernel)⟩,
   ⟨_, ends_reply (bytes := answer (call .command .command) false 8 []) rfl rfl rfl (by decide +kernel)⟩,
   ⟨_, ends_reply (bytes := answer (call .command .command) false 8 []) rfl rfl rfl (by decide +kernel)⟩,
   ⟨_, ends_silence rfl rfl rfl (by decide)⟩, ⟨_, ends_garble rfl rfl rfl (by decide)⟩⟩

/-- The engine receives the reply to a FETCH to the ACTIVE slot 7, whose last message number is given. -/
def fetching (n : Option (BitVec 4)) : State :=
  receiving (call .fetch .fetch) 1
    (State.reset.setEntry 6
      { active with
        state := .active { ActiveData.initial 3 0 20 with outstanding := some ⟨held 0 none, true⟩ }
        lastNumber := n, lastVerdict := n.map fun n => ⟨n, .accept, 0⟩ })

theorem ends_message {n : Option (BitVec 4)} (cls : Byte) (number : Byte) (seq : Bool) (data : List Byte) (m : BitVec 4)
    (h : classify (call .fetch .fetch)
      (answer (call .fetch .fetch) seq 5 (cls :: number :: byteOfNat data.length :: data)) false =
        .reply (.message cls m data) seq) :
    ∃ i, ExchangeEnds i (call .fetch .fetch) (.reply (.message cls m data) seq) (fetching n) :=
  ⟨_, ends_reply rfl rfl rfl h⟩

/-- Classes 0, 4 and 15; HOLD with and without data; LATE_RESULT with the matching bit and with another, RENEGOTIATE; class
16 and class 255; new messages, the first, the one after 15 and those after a gap, and a repeat. -/
theorem test_witness_messages :
    (∃ i, ExchangeEnds i (call .fetch .fetch) (.reply (.message 0 3 []) false) (fetching none)) ∧
      (∃ i, ExchangeEnds i (call .fetch .fetch) (.reply (.message 15 3 []) false) (fetching (some 1))) ∧
      (∃ i, ExchangeEnds i (call .fetch .fetch) (.reply (.message 1 0 [255]) false) (fetching (some 15))) ∧
      (∃ i, ExchangeEnds i (call .fetch .fetch) (.reply (.message 1 0 []) false) (fetching none)) ∧
      (∃ i, ExchangeEnds i (call .fetch .fetch) (.reply (.message 2 0 [1]) true) (fetching none)) ∧
      (∃ i, ExchangeEnds i (call .fetch .fetch) (.reply (.message 2 0 [1]) false) (fetching none)) ∧
      (∃ i, ExchangeEnds i (call .fetch .fetch) (.reply (.message 3 0 []) false) (fetching none)) ∧
      (∃ i, ExchangeEnds i (call .fetch .fetch) (.reply (.message 16 0 []) false) (fetching none)) ∧
      (∃ i, ExchangeEnds i (call .fetch .fetch) (.reply (.message 1 3 [2]) false) (fetching (some 1))) ∧
      (∃ i, ExchangeEnds i (call .fetch .fetch) (.reply (.message 2 3 [1]) true) (fetching (some 1))) ∧
      (∃ i, ExchangeEnds i (call .fetch .fetch) (.reply (.message 3 3 []) false) (fetching (some 1))) ∧
      (∃ i, ExchangeEnds i (call .fetch .fetch) (.reply (.message 16 3 []) false) (fetching (some 1))) ∧
      (∃ i, ExchangeEnds i (call .fetch .fetch) (.reply (.message 255 7 [2]) false) (fetching (some 7))) ∧
      (∃ i, ExchangeEnds i (call .fetch .fetch) (.reply .empty false) (fetching none)) ∧
      (∃ i, ExchangeEnds i (call .fetch .fetch) .silence
        (waiting (call .fetch .fetch) 3 (State.reset.setEntry 6 active))) ∧
      (∃ i, ExchangeEnds i (call .fetch .fetch) .garble
        (receiving (call .fetch .fetch) 3 (State.reset.setEntry 6 lost))) ∧ ((0 : BitVec 4) - 1 = 15) :=
  ⟨ends_message 0 3 false [] 3 (by decide +kernel), ends_message 15 3 false [] 3 (by decide +kernel),
   ends_message 1 0 false [255] 0 (by decide +kernel), ends_message 1 0 false [] 0 (by decide +kernel),
   ends_message 2 0 true [1] 0 (by decide +kernel), ends_message 2 0 false [1] 0 (by decide +kernel),
   ends_message 3 0 false [] 0 (by decide +kernel), ends_message 16 0 false [] 0 (by decide +kernel),
   ends_message 1 3 false [2] 3 (by decide +kernel), ends_message 2 3 true [1] 3 (by decide +kernel),
   ends_message 3 3 false [] 3 (by decide +kernel), ends_message 16 3 false [] 3 (by decide +kernel),
   ends_message 255 7 false [2] 7 (by decide +kernel),
   ⟨_, ends_reply (bytes := answer (call .fetch .fetch) false 6 []) rfl rfl rfl (by decide +kernel)⟩,
   ⟨_, ends_silence rfl rfl rfl (by decide)⟩, ⟨_, ends_garble rfl rfl rfl (by decide)⟩, by decide⟩

/-- A repeat's last verdict is owed again and a new software message takes the lowest free handle. -/
theorem test_messages :
    ((judgeMessage 6 255 7 [2] false (fetching (some 7))).entry 6).verdictOwed = some ⟨⟨7, .accept, 0⟩, false⟩ ∧
      (judgeMessage 6 16 0 [] false (fetching (some 15))).mu.queue = [⟨0, 6, 16, 0, [], none, 0, false⟩] ∧
      (judgeMessage 6 4 3 [] false (fetching (some 1))).nq.notices =
        [⟨.messageGap, 7, 3, 0⟩, ⟨.messageRejected, 7, 4, 0⟩] ∧
      (judgeMessage 6 2 3 [1] false (fetching (some 1))).nq.notices =
        [⟨.messageGap, 7, 3, 0⟩, ⟨.lateStale, 7, 0, 0⟩] := by decide +kernel

/-- The rows of Table 6-3, each at a state that meets its condition and no earlier one's. -/
theorem test_witness_VerdictResults :
    let s := fun l cause => deferring l cause State.reset
    (verdict (args 9 9 0 0 (s [] .none))).2 = .badReason ∧ (verdict (args 9 9 2 0xF0 (s [] .none))).2 = .badReason ∧
      (verdict (args 9 9 2 0 (s [] .none))).2 = .badReason ∧ (verdict (args 8 3 1 0 (s [] .none))).2 = .noEntry ∧
      (verdict (args 2 4 1 0 (s [deferred none false] .none))).2 = .noEntry ∧
      (verdict (args 2 3 2 0xEF (s [deferred none false] .none))).2 = .taken ∧
      (verdict (args 2 3 1 0xFF (s [deferred none false] .none))).2 = .taken ∧
      (verdict (args 2 3 1 0 (s [deferred (some ⟨.reject, 0xF2, .timeout⟩) false] .none))).2 = .tooLate ∧
      (verdict (args 2 3 1 0 (s [deferred (some ⟨.accept, 0, .software⟩) false] .none))).2 = .alreadyDecided ∧
      (verdict (args 2 3 1 0 (s [] .timeout))).2 = .tooLate ∧
      (verdict (args 2 3 1 0 (s [] .software))).2 = .alreadyDecided ∧
      (verdict (args 2 3 1 0 (s [] .gone))).2 = .gone ∧ (verdict (args 2 3 1 0 (s [] .none))).2 = .noEntry := by
  decide +kernel

theorem test_witness_VerdictTimeout :
    let s := deferring [deferred none true] .none State.reset
    (s.mu.queue.map Deferred.handle).Nodup ∧ (s.mu.queue.map Deferred.slot).Nodup ∧
      (timeOutAll s).nq.notices = [⟨.verdictTimeout, 7, 2, 0⟩] ∧
      ((timeOutAll s).entry 6).verdictOwed = some ⟨⟨5, .reject, 0xF2⟩, false⟩ := by decide +kernel

/-- The engine receives the reply to a VERDICT to slot 7, whose entry is given, with the deferred queue given. -/
def answering (e : Entry) (request : Bool) (l : List Deferred) : State :=
  receiving (call .verdict .verdict) 3
    (deferring l .none (State.reset.setEntry 6 { e with verdictOwed := some ⟨⟨5, .accept, 0⟩, request⟩ }))

theorem ends_ack (e : Entry) (request : Bool) (l : List Deferred) :
    ExchangeEnds (framed (answer (call .verdict .verdict) false 3 [])) (call .verdict .verdict)
      (.reply .ack false) (answering e request l) :=
  ends_reply rfl rfl rfl (by decide +kernel)

theorem test_witness_VerdictExchangeEnd :
    (answering active false []).deferredOf 6 = none ∧
      (answering active false [deferred (some ⟨.accept, 0, .software⟩) false]).deferredOf 6 =
        some (deferred (some ⟨.accept, 0, .software⟩) false) ∧
      ((answering (negotiating Context.initial) true []).entry 6).context? = some Context.initial ∧
      ((answering active true []).entry 6).wantsRenegotiation = true ∧
      ¬ Retried (call .verdict .verdict) .silence (waiting (call .verdict .verdict) 3 (answering active true [])).link ∧
      ((answering lost false []).entry 6).state = .lost := by decide +kernel

/-- A byte's ten bits, samples with noise, with a low stop bit and of a break, and a call on the line. -/
theorem test_witness_line :
    serial 0xC3 = 0x386 ∧ sampledByte 0x386 = 0xC3 ∧ hasFramingError 0x386 = false ∧ hasFramingError 0x186 = true ∧
      hasFramingError 0 = true ∧ isBreak 0 = true ∧ receivedBytes [0x3FF, 0x386] = [0xC3] ∧
      anyFramingError [0x1FF, 0x386] = false ∧ anyFramingError [0x386, 0] = true ∧
      (let s := linkS fun l =>
        { l with state := .sending, activity := .transmitting, current := some (call .duePoll .poll) }
       s.txFrame = some [0xC3, 0x07, 0x04, 0x00, 0xC8, 0x85] ∧
         (List.range 11).map s.txd = [.low, .high, .high, .low, .low, .low, .low, .high, .high, .high, .low] ∧
         s.txd 59 = .high ∧ s.txd 60 = .high ∧ s.link.state ≠ .broadcasting ∧ s.link.rate ≠ 3) ∧
      idle.txd 0 = .high ∧ idle.bitMicros = some 4 ∧ idle.byteMicros = some 40 := by decide +kernel

theorem test_witness_BuiltReplyIsRead :
    permittedReply .settle 3 [3] = some (.settleAck 3) ∧
      permittedReply .fetch 5 (16 :: 15 :: 28 :: List.replicate 28 0) =
        some (.message 16 15 (List.replicate 28 0)) := by decide

theorem test_witness_BadFrameIsGarble :
    classify (call .duePoll .poll) (frame 7 false true 4 [0, 0, 0, 0, 0, 0, 0]) false =
        .reply (.status ⟨0, 0, 0, 0, 0, 0, 0⟩) false ∧
      classify (call .duePoll .poll) (frame 8 false true 4 [0, 0, 0, 0, 0, 0, 0]) false = .garble ∧
      classify (call .duePoll .poll) (frame 7 false false 4 [0, 0, 0, 0, 0, 0, 0]) false = .garble ∧
      classify (call .duePoll .poll) (frame 7 false true 4 [0, 0, 0, 0, 0, 0]) false = .garble := by decide +kernel

/-- A CENSUS of slot 7 is on the line, on an attempt, with the entry's census enable given. -/
def sweeping (attempt : Nat) (enable : Bool) : State :=
  receiving (censusCall 6) attempt (State.reset.setEntry 6 { Entry.reset with censusEnable := enable })

theorem test_witness_CensusExchangeEnd :
    (∃ i, ExchangeEnds i (censusCall 6) (.reply (.hello 7 4) false) (sweeping 1 true)) ∧
      (∃ i, ExchangeEnds i (censusCall 6) (.reply (.hello 0 4) false) (sweeping 1 true)) ∧
      (∃ i, ExchangeEnds i (censusCall 6) .garble (sweeping 2 true)) ∧
      (∃ i, ExchangeEnds i (censusCall 6) .garble (sweeping 2 false)) ∧
      (∃ i, ExchangeEnds i (censusCall 6) .silence (waiting (censusCall 6) 1 (sweeping 1 true))) ∧
      (7 : Byte) = slotByte 6 :=
  ⟨⟨_, ends_reply (bytes := answer (censusCall 6) false 1 [7, 4]) rfl rfl rfl (by decide +kernel)⟩,
   ⟨_, ends_reply (bytes := answer (censusCall 6) false 1 [0, 4]) rfl rfl rfl (by decide +kernel)⟩,
   ⟨_, ends_garble rfl rfl rfl (by decide)⟩, ⟨_, ends_garble rfl rfl rfl (by decide)⟩,
   ⟨_, ends_silence rfl rfl rfl (by decide)⟩, by decide⟩

/-- The engine receives the reply to a SETTLE to slot 7, proposed profile P3. -/
def settling (e : Entry) : State := receiving (call .negotiation .settle) 3 (State.reset.setEntry 6 e)

/-- A context in phase SETTLE with P3 proposed. -/
def proposed : Context := { Context.initial with phase := .settle 3 }

theorem test_witness_SettleExchangeEnd :
    (∃ i, ExchangeEnds i (call .negotiation .settle) (.reply (.settleAck 3) false) (settling (negotiating proposed))) ∧
      (∃ i, ExchangeEnds i (call .negotiation .settle) (.reply (.settleAck 255) false)
        (settling (negotiating proposed))) ∧
      (∃ i, ExchangeEnds i (call .negotiation .settle) .garble (settling (negotiating proposed))) ∧
      ((settling Entry.reset).entry 6).context? = none ∧ (3 : Byte) = profileByte 3 :=
  ⟨⟨_, ends_reply (bytes := answer (call .negotiation .settle) false 3 [3]) rfl rfl rfl (by decide +kernel)⟩,
   ⟨_, ends_reply (bytes := answer (call .negotiation .settle) false 3 [255]) rfl rfl rfl (by decide +kernel)⟩,
   ⟨_, ends_garble rfl rfl rfl (by decide)⟩, by decide, by decide⟩

/-- The engine receives the reply to a PAGE to slot 7, whose context is given, with a local list of one MESSAGE entry after
the BASE entry. -/
def paging (ctx : Context) : State :=
  receiving (call .negotiation .page) 3
    { State.reset.setEntry 6 (negotiating ctx) with
      px :=
        { State.reset.px with
          count := 2
          pages := (State.reset.px.pages.set 0 ⟨.base, ⟨0x0E, 0, 0, 0⟩, false⟩).set 1
            ⟨.message, ⟨0x21, 0, 0, 0⟩, true⟩ } }

theorem ends_page (ctx : Context) (p : Page)
    (h : classify (call .negotiation .page) (answer (call .negotiation .page) false 2 p.bytes) false =
      .reply (.page p) false) :
    ExchangeEnds (framed (answer (call .negotiation .page) false 2 p.bytes)) (call .negotiation .page)
      (.reply (.page p) false) (paging ctx) :=
  ends_reply rfl rfl rfl h

/-- A context after an accepted page with toggle 0, offering local entry 1. -/
def midway : Context :=
  { Context.initial with localIndex := 1, moduleToggle := some false, ack := some ⟨false, true⟩, fresh := false }

/-- First pages: BASE of the class, BASE of another, MESSAGE. Later pages: a repeat, an acknowledging repeat with comply 0
and 1, a new MESSAGE, an UNFORMATTED and a NULL that are out of order. -/
theorem test_witness_pages :
    (∃ i, ExchangeEnds i (call .negotiation .page) (.reply (.page (basePage true)) false) (paging Context.initial)) ∧
      (∃ i, ExchangeEnds i (call .negotiation .page)
        (.reply (.page { basePage true with body := ⟨0, 5, 0, 0⟩ }) false) (paging Context.initial)) ∧
      (∃ i, ExchangeEnds i (call .negotiation .page)
        (.reply (.page { basePage true with kind := .message }) false) (paging Context.initial)) ∧
      (∃ i, ExchangeEnds i (call .negotiation .page) (.reply (.page (basePage true)) false)
        (paging { midway with steps := 19 })) ∧
      (∃ i, ExchangeEnds i (call .negotiation .page)
        (.reply (.page { basePage true with ackValid := true, comply := true }) false) (paging midway)) ∧
      (∃ i, ExchangeEnds i (call .negotiation .page) (.reply (.page { basePage true with ackValid := true }) false)
        (paging midway)) ∧
      (∃ i, ExchangeEnds i (call .negotiation .page)
        (.reply (.page { basePage false with kind := .message, toggle := true, body := ⟨0x90, 0, 0, 0⟩ }) false)
        (paging midway)) ∧
      (∃ i, ExchangeEnds i (call .negotiation .page)
        (.reply (.page { basePage false with kind := .unformatted, toggle := true }) false) (paging midway)) ∧
      (∃ i, ExchangeEnds i (call .negotiation .page)
        (.reply (.page { basePage false with kind := .null, toggle := true }) false)
        (paging { midway with finalSeen := true })) ∧
      ∃ i, ExchangeEnds i (call .negotiation .page) (.reply (.page (basePage true)) false)
        (paging { midway with localDone := true, finalSeen := true }) :=
  ⟨⟨_, ends_page _ _ (by decide +kernel)⟩, ⟨_, ends_page _ _ (by decide +kernel)⟩, ⟨_, ends_page _ _ (by decide +kernel)⟩,
   ⟨_, ends_page _ _ (by decide +kernel)⟩, ⟨_, ends_page _ _ (by decide +kernel)⟩, ⟨_, ends_page _ _ (by decide +kernel)⟩,
   ⟨_, ends_page _ _ (by decide +kernel)⟩, ⟨_, ends_page _ _ (by decide +kernel)⟩, ⟨_, ends_page _ _ (by decide +kernel)⟩,
   ⟨_, ends_page _ _ (by decide +kernel)⟩⟩

/-- What the first half makes of an acknowledgement: none, one of the BASE entry, of the required MESSAGE entry, and of a
NULL page with local done set and with the list shortened. -/
theorem test_witness_FirstHalf :
    let px := (paging midway).px
    let acking := { basePage true with ackValid := true, comply := true }
    let done := { midway with localIndex := 2, localDone := true }
    FirstHalf px (basePage true) midway midway ⟨0, 0⟩ ⟨0, 0⟩ ∧
      FirstHalf px acking Context.initial { Context.initial with localIndex := 1, localToggle := true } ⟨0, 0⟩ ⟨0, 0⟩ ∧
      FirstHalf px acking midway { done with localToggle := true } ⟨0, 0⟩ ⟨0, 2⟩ ∧
      FirstHalf px acking done { done with localToggle := true } ⟨0, 0⟩ ⟨0, 0⟩ ∧
      FirstHalf { px with count := 1 } acking midway { midway with localDone := true, localToggle := true } ⟨0, 0⟩ ⟨0, 0⟩ :=
  ⟨Or.inl ⟨Or.inl rfl, rfl, rfl⟩,
   Or.inr ⟨rfl, rfl, Or.inr ⟨_, rfl, rfl, by decide, rfl, Or.inl ⟨by decide, rfl⟩⟩⟩,
   Or.inr ⟨rfl, rfl, Or.inr ⟨_, rfl, rfl, by decide, rfl, Or.inr ⟨rfl, Or.inr rfl, rfl, by decide⟩⟩⟩,
   Or.inr ⟨rfl, rfl, Or.inl ⟨Or.inl rfl, rfl, rfl⟩⟩, Or.inr ⟨rfl, rfl, Or.inl ⟨Or.inr (by decide), rfl, rfl⟩⟩⟩

/-- A new page and a matching acknowledgement in one reply; an UNFORMATTED page in order; a NULL page that ends the
exchange; and the step that reaches 20. -/
theorem test_witness_page_with_acknowledgement :
    (∃ i, ExchangeEnds i (call .negotiation .page)
        (.reply (.page { basePage false with
          kind := .message, toggle := true, ackValid := true, comply := true, body := ⟨0x90, 0, 0, 0⟩ }) false)
        (paging midway)) ∧
      (∃ i, ExchangeEnds i (call .negotiation .page)
        (.reply (.page { basePage true with ackValid := true, comply := true }) false) (paging Context.initial)) ∧
      (∃ i, ExchangeEnds i (call .negotiation .page)
        (.reply (.page { basePage false with kind := .unformatted, toggle := true, ackValid := true, comply := true }) false)
        (paging { midway with argsLeft := 1, steps := 19 })) ∧
      (∃ i, ExchangeEnds i (call .negotiation .page)
        (.reply (.page { basePage false with kind := .null, toggle := true, ackValid := true, comply := true }) false)
        (paging { midway with finalSeen := true })) ∧
      ∃ i, ExchangeEnds i (call .negotiation .page)
        (.reply (.page { basePage true with ackValid := true }) false)
        (paging { midway with localIndex := 2, localDone := true }) :=
  ⟨⟨_, ends_page _ _ (by decide +kernel)⟩, ⟨_, ends_page _ _ (by decide +kernel)⟩, ⟨_, ends_page _ _ (by decide +kernel)⟩,
   ⟨_, ends_page _ _ (by decide +kernel)⟩, ⟨_, ends_page _ _ (by decide +kernel)⟩⟩

/-- All 96 places of the pool taken, by slot 1. -/
def poolTaken (s : State) : State :=
  s.setEntry 0 { active with pages := List.replicate 96 ⟨.message, ⟨1, 0, 0, 0⟩, true⟩ }

/-- Accepted pages: MESSAGE with an acknowledgement, UNFORMATTED with the comply of its MESSAGE page, both with the
pool full; and a NULL page whose acknowledgement sets local done. -/
theorem test_accepted_pages :
    let message := { basePage false with
      kind := .message, toggle := true, ackValid := true, comply := true, body := ⟨0x90, 0, 0, 0⟩ }
    let argument := { basePage false with kind := .unformatted, toggle := true, body := ⟨1, 2, 3, 4⟩ }
    let owing := { midway with argsLeft := 1 }
    let entry := fun (ctx : Context) (p : Page) (s : State) => (pageStep 6 ctx p s).entry 6
    (entry midway message (paging midway)).pages = [⟨.message, ⟨0x90, 0, 0, 0⟩, false⟩] ∧
      (entry midway message (paging midway)).record = some ⟨0, 2⟩ ∧
      (entry owing argument (paging owing)).pages = [⟨.unformatted, ⟨1, 2, 3, 4⟩, true⟩] ∧
      (entry owing argument (paging owing)).context?.map (fun c => c.argsLeft) = some 0 ∧
      (poolTaken (paging owing)).poolFree = 0 ∧
      (entry midway message (poolTaken (paging midway))).record = some ⟨1, 2⟩ ∧
      (entry owing argument (poolTaken (paging owing))).record = some ⟨1, 0⟩ ∧
      (entry { owing with steps := 19 } argument (paging owing)).state = .failed .stepLimit ∧
      (entry { midway with finalSeen := true }
        { message with kind := .null } (paging midway)).context?.map (fun c => c.phase) = some (.settle 3) := by
  decide +kernel

/-- Where those pages lead: Table 2-5's faults, an accepted page, and a proposed profile. -/
theorem test_pages :
    ((pageStep 6 Context.initial { basePage true with kind := .message } (paging Context.initial)).entry 6).state =
        .failed .pageOrder ∧
      ((pageStep 6 Context.initial { basePage true with body := ⟨0, 5, 0, 0⟩ } (paging Context.initial)).entry 6).state =
        .failed .classMismatch ∧
      ((pageStep 6 { midway with steps := 19 } (basePage true) (paging midway)).entry 6).state = .failed .stepLimit ∧
      ((pageStep 6 midway { basePage true with ackValid := true } (paging midway)).entry 6).state =
        .failed .notComplied ∧
      ((pageStep 6 midway { basePage true with ackValid := true, comply := true } (paging midway)).entry 6).record =
        some ⟨0, 2⟩ ∧
      ((pageStep 6 midway { basePage false with kind := .message, toggle := true, body := ⟨0x90, 0, 0, 0⟩ }
        (paging midway)).entry 6).pages = [⟨.message, ⟨0x90, 0, 0, 0⟩, false⟩] ∧
      ((pageStep 6 { midway with localDone := true, finalSeen := true } (basePage true) (paging midway)).entry 6).context?.map
        (fun c => c.phase) = some (.settle 3) := by decide +kernel

theorem test_witness_FailedAndLostEntries :
    ((paging midway).entry 6).context? = some midway ∧ ((paging midway).entry 6).record = some ⟨0, 0⟩ ∧
      (active.missCount + 1 < State.reset.sched.missLimit.toNat) ∧
      State.reset.sched.missLimit.toNat ≤ ({ active with missCount := 2 } : Entry).missCount + 1 ∧
      (countMiss 6 (deferring [deferred none false] .none
        (State.reset.setEntry 6 { active with missCount := 2 }))).nq.notices =
          [⟨.moduleLost, 7, 0, 0⟩, ⟨.deferredGone, 7, 2, 0⟩] := by decide +kernel

/-- The engine receives the reply to a POLL to slot 7, whose entry is given. -/
def polling (e : Entry) : State := receiving (call .duePoll .poll) 3 (State.reset.setEntry 6 e)

theorem test_witness_PollExchangeEnd :
    (∃ i, ExchangeEnds i (call .duePoll .poll) (.reply (.status ⟨1, 2, 3, 4, 5, 6, 7⟩) false) (polling active)) ∧
      (∃ i, ExchangeEnds i (call .duePoll .poll) .garble (polling active)) ∧
      ((polling lost).entry 6).active? = none :=
  ⟨⟨_, ends_reply (bytes := answer (call .duePoll .poll) false 4 [1, 2, 3, 4, 5, 6, 7]) rfl rfl rfl (by decide +kernel)⟩,
   ⟨_, ends_garble rfl rfl rfl (by decide)⟩, by decide⟩

/-- Slots 0, 1, 30 and 31, and an entry in each of the five states. -/
theorem test_witness_slot_actions :
    (onSlot detachSlot (args 0 0 0 0 State.reset)).2 = .badSlot ∧
      (onSlot releaseSlot (args 31 0 0 0 State.reset)).2 = .badSlot ∧
      (onSlot detachSlot (args 1 0 0 0 State.reset)).2 = .alreadyVacant ∧
      (onSlot detachSlot (args 30 0 0 0 (State.reset.setEntry 29 (negotiating midway)))).2 = .done ∧
      (onSlot renegotiateSlot (args 7 0 0 0 (State.reset.setEntry 6 active))).2 = .done ∧
      (onSlot releaseSlot (args 7 0 0 0 (State.reset.setEntry 6 failed))).2 = .done ∧
      (onSlot releaseSlot (args 7 0 0 0 (State.reset.setEntry 6 lost))).2 = .done ∧
      ((onSlot detachSlot (args 7 0 0 0 (State.reset.setEntry 6 lost))).1.entry 6).releaseOwed = false ∧
      ((onSlot detachSlot (args 7 0 0 0 (State.reset.setEntry 6 failed))).1.entry 6).releaseOwed = true := by
  decide +kernel

theorem test_witness_LocalPageListValidation :
    (paging midway).px.count ≤ 8 ∧ (paging midway).px.valid = true ∧ State.reset.px.valid = false := by decide

theorem test_witness_EnableLink :
    ({ State.reset with px := (paging midway).px } : State).link.state = .off ∧ idle.link.state ≠ .off ∧
      State.reset.link.state = .off := by decide

theorem test_witness_DisableLink :
    (inState .fault .quiet).link.state = .fault ∧ (inState .fault .quiet).link.current = none ∧
      (inState .fault .quiet).link.heldBroadcast = false ∧ (inState .fault .quiet).link.restartPending = false ∧
      (linkS fun l => { l with state := .fault, restartPending := true }).link.restartPending = true := by decide

/-- A restart in IDLE with an ACTIVE slot 7 that holds an outstanding command, a queued command, an owed verdict and a
deferred entry. -/
def restarting : State :=
  { deferring [deferred none false] .none
      (idle.setEntry 6
        { active with
          state := .active { ActiveData.initial 3 0 20 with outstanding := some ⟨held 0 none, true⟩ }
          verdictOwed := some ⟨⟨5, .accept, 0⟩, false⟩ }) with
    sched := { State.reset.sched with owed := [6] }
    ce := { State.reset.ce with queue := [⟨held 1 none, none⟩] } }

theorem test_witness_RestartLink :
    restarting.Running ∧ restarting.link.state = .idle ∧
      (∀ d ∈ restarting.mu.queue, (restarting.entry d.slot).state ≠ .vacant) ∧
      (restarting.mu.queue.map Deferred.slot).Nodup ∧ (restarting.mu.queue.map Deferred.handle).Nodup ∧
      (∀ i, (restarting.entry i).verdictOwed ≠ none → (restarting.entry i).state ≠ .vacant) ∧
      (∀ i ∈ restarting.sched.owed, (restarting.entry i).state ≠ .vacant) := by decide +kernel

theorem test_restart :
    (restartLink restarting).1.ce.completions.map (fun c => c.status) = [.linkRestart, .linkRestart] ∧
      (restartLink restarting).1.nq.notices = [⟨.deferredGone, 7, 2, 0⟩, ⟨.linkRestarted, 0, 0, 0⟩] ∧
      (restartLink restarting).1.sched.owed = [] ∧ (restartLink restarting).1.mu.queue = [] ∧
      (restartLink restarting).1.link.state = .broadcasting ∧
      (restartLink restarting).1.txFrame = some broadcastFrame := by decide +kernel

/-- One state for each of the first four classes, with no work above it. -/
theorem test_witness_CallChoiceHigherClasses :
    ((idle.setEntry 29 { Entry.reset with releaseOwed := true }).entry 29).releaseOwed = true ∧
      ({ idle.setEntry 6 { active with verdictOwed := some ⟨⟨5, .accept, 0⟩, false⟩ } with
        sched := { State.reset.sched with owed := [6] } } : State).verdictWork = some (.verdict 6) ∧
      (idle.setEntry 29 (negotiating midway)).nextWork = some (.negotiation 29) ∧
      (idle.setEntry 0 (negotiating proposed)).nextWork = some (.negotiation 0) ∧
      ((idle.setEntry 6 (activeAt .overdue)).setEntry 5 (activeAt .due)).nextWork = some (.overduePoll 6) ∧
      idle.link.stopPending = false ∧ State.reset.link.state ≠ .idle := by decide +kernel

/-- PAGE calls: the BASE entry with more 1 and no acknowledgement yet, the last entry with one, and the NULL page. -/
theorem test_page_calls :
    let px := (paging midway).px
    (negotiationCall 6 px Context.initial).payload = [0x84, 0x0E, 0, 0, 0] ∧
      (negotiationCall 6 px midway).payload = [0x51, 0x21, 0, 0, 0] ∧
      (negotiationCall 6 px { midway with localIndex := 2, localDone := true, localToggle := true }).payload =
        [0x5B, 0, 0, 0, 0] ∧
      (negotiationCall 6 { px with count := 1 } midway).payload = [0x53, 0, 0, 0, 0] := by decide +kernel

/-- A queued command that cannot start, its target on hold, and a full reservation: the lower classes have their turn. -/
theorem test_witness_waiting_command :
    let holding := fun h : Byte => { starting.setEntry 6 { active with hold := h, fetchWanted := true } with
      ce := starting.ce }
    let full := fun s : State => { s with ce := { s.ce with completions := List.replicate 16 record } }
    (holding 1).nextWork = some (.fetch 6) ∧ (full (holding 0)).nextWork = some (.fetch 6) ∧
      16 ≤ (full (holding 0)).reservation ∧
      (holding 0).nextWork = some (.command ⟨held 0 (some 50), none⟩) := by decide +kernel

/-- One state for each of the last three classes of Table 4-1 and one with no work. -/
theorem test_witness_CallChoiceLowerClasses :
    (idle.setEntry 6 { activeAt .due with fetchWanted := true }).nextWork = some (.fetch 6) ∧
      (idle.setEntry 6 (activeAt .due)).nextWork = some (.duePoll 6) ∧
      ({ idle.setEntry 29 { Entry.reset with censusEnable := true } with
        sched := { State.reset.sched with censusElapsed := 10 } } : State).nextWork = some (.census 29) ∧
      ({ idle.setEntry 29 { Entry.reset with censusEnable := true } with
        sched := { State.reset.sched with censusElapsed := 9 } } : State).nextWork = none ∧
      idle.nextWork = none ∧ idle.ce.queue = [] ∧ idle.sched.owed = [] ∧
      (∀ i, (idle.entry i).releaseOwed = false ∧ (idle.entry i).context? = none ∧
        (idle.entry i).standingIs .overdue = false) := by decide +kernel

theorem test_witness_AttemptPhases :
    (callSent (inState .sending .transmitting)).link.state = .waiting ∧
      (callSent (inState .sending .transmitting)).link.window = some 30 ∧
      (callSent (inState .broadcasting .transmitting)).link.activity = .frameEnding ∧
      (replyStartBit (inState .waiting .awaiting)).link.state = .receiving ∧
      (callSent (linkS fun l => { l with state := .stopping, activity := .transmitting, stopPending := true })).link.state =
        .stopping ∧
      (retryGapEnd (inState .sending .gap)).link.activity = .transmitting := by decide +kernel

theorem test_witness_AttemptAndExchangeEnd :
    (∃ i, AttemptEnds i (call .duePoll .poll) .silence (waiting (call .duePoll .poll) 2 State.reset) ∧
        Retried (call .duePoll .poll) .silence (waiting (call .duePoll .poll) 2 State.reset).link) ∧
      (∃ i, AttemptEnds i (censusCall 6) .garble (sweeping 1 true) ∧ Retried (censusCall 6) .garble (sweeping 1 true).link) ∧
      (∃ i, ExchangeEnds i (call .release .release) .garble (receiving (call .release .release) 3 State.reset)) ∧
      State.reset.link.restartPending = false ∧ (State.reset.entry 6).state = .vacant :=
  ⟨⟨_, ⟨rfl, rfl, Or.inr (Or.inl ⟨rfl, rfl, rfl⟩)⟩, by decide⟩,
   ⟨_, ⟨rfl, rfl, Or.inr (Or.inr ⟨rfl, rfl, rfl⟩)⟩, by decide⟩, ⟨_, ends_garble rfl rfl rfl (by decide)⟩, rfl, rfl⟩

theorem test_witness_LineFault :
    let on := fun l a => linkS fun x => { x with state := l, activity := a, current := some (call .duePoll .poll) }
    let s := on .sending .transmitting
    s.link.activity = .transmitting ∧ s.link.state ≠ .off ∧ s.txFrame = some [0xC3, 0x07, 0x04, 0x00, 0xC8, 0x85] ∧
      s.txd 0 = .low ∧ s.txd 1 = .high ∧ s.txd 59 = .high ∧ s.txBits = 60 ∧
      (lineFault (.echo 0 .high) s).link.state = .fault ∧ (lineFault (.echo 0 .low) s).link.state = .sending ∧
      (lineFault (.echo 1 .low) s).nq.notices = [⟨.lineFault, 0, 0, 0⟩] ∧
      (lineFault (.echo 59 .low) s).link.state = .fault ∧ (lineFault (.echo 60 .low) s).link.state = .sending ∧
      (lineFault (.echo 0 .high) (inState .broadcasting .transmitting)).link.heldBroadcast = true ∧
      (lineFault .lfltnLow idle).nq.notices = [⟨.lineFault, 0, 0, 0⟩] ∧
      (lineFault (.echo 0 .high) (on .sending .gap)).link.state = .sending ∧
      (lineFault (.echo 0 .low) (linkS fun l => { l with state := .fault, quiet := 9 })).link.quiet = 0 ∧
      (lineFault (.echo 0 .high) (linkS fun l => { l with state := .fault, quiet := 9 })).link.quiet = 9 := by
  decide +kernel

/-- Quiet-time counts 9 and 10, and what is held. -/
theorem test_witness_LineRestoredAndBroadcastEnd :
    let f := fun q c b r p => linkS fun l =>
      { l with state := .fault, quiet := q, current := c, heldBroadcast := b, restartPending := r, stopPending := p }
    (lineRestored (f 9 none false false false)).link.state = .fault ∧
      (lineRestored (f 10 none false false false)).link.state = .idle ∧
      (lineRestored (f 10 none false false true)).link.state = .off ∧
      (lineRestored (f 10 none false true true)).link.state = .broadcasting ∧
      (lineRestored (f 10 none true true true)).link.restartPending = true ∧
      (lineRestored (f 10 (some (call .duePoll .poll)) false true true)).link.state = .stopping ∧
      (broadcastEnd (inState .broadcasting .frameEnding)).link.state = .idle ∧
      (broadcastEnd (inState .broadcasting .transmitting)).link.state = .idle ∧
      (broadcastEnd (linkS fun l =>
        { l with state := .broadcasting, activity := .frameEnding, stopPending := true })).link.state = .off ∧
      (broadcastEnd (linkS fun l =>
        { l with state := .broadcasting, activity := .frameEnding, restartPending := true })).nq.notices =
          [⟨.linkRestarted, 0, 0, 0⟩] := by decide +kernel

theorem test_tick :
    (msTick .high .high { fullNotices 0 with sched := { State.reset.sched with mscount := 0xFFFF } }).sched.mscount = 0 ∧
      (msTick .high .high (linkS fun l => { l with state := .fault, quiet := 9 })).link.quiet = 10 ∧
      (msTick .high .low (linkS fun l => { l with state := .fault, quiet := 9 })).link.quiet = 0 ∧
      ((msTick .high .high (State.reset.setEntry 6 { active with hold := 1 })).entry 6).hold = 0 := by decide +kernel

/-- A standing NOT_DUE whose due time the tick has reached, and one DUE whose period has run out. -/
theorem test_witness_TimeMarks :
    let d := ActiveData.initial 3 1 20
    let s := fun x : ActiveData => (State.reset.setEntry 6 { active with state := .active x })
    ((s { d with standing := .notDue, dueReached := true }).entry 6).active?.map (fun x => x.takeDue.standing) =
        some .due ∧
      ((s { d with overdueReached := true }).entry 6).active?.map (fun x => x.takeOverdue.standing) = some .overdue ∧
      ((msTick .high .high (s { d with standing := .notDue })).entry 6).active?.map (fun x => x.dueReached) =
        some true := by decide +kernel

theorem test_witness_invariants : ∃ t, step State.reset = .next t ∧ State.reset.link.Ok :=
  ⟨_, rfl, rfl, rfl, rfl, rfl, rfl⟩

end Sys2Proof.Tests
end

section
/-! ## Steps and invariants

What a property of states has to satisfy, meaning by meaning, for every step to keep it. The commands share their
meanings (a write to a register runs the same operation as the row of its address), so each operation stands here once. -/

namespace Sys2Proof.Machine

/-- A property that every operation of the dispatcher keeps. -/
structure Kept (P : State → Prop) : Prop where
  pending : ∀ {s : State} (l : List Instr), P s → P { s with pending := l }
  pins : ∀ {s : State} (p : Pins), P s → P { s with pins := p }
  win : ∀ {s : State} (w : Window), w.offset = s.win.offset ∨ w.offset ≤ 1023 → P s → P { s with win := w }
  holding : ∀ {s : State} (b : Byte), P s → P { s with sched := { s.sched with holding := b } }
  enableLink : ∀ {s : State} (l : Level), P s → P (enableLink l s).1
  disableLink : ∀ {s : State}, P s → P (disableLink s).1
  restartLink : ∀ {s : State}, P s → P (restartLink s).1
  submit : ∀ {s : State}, P s → P (submit s).1
  cancel : ∀ {s : State}, P s → P (cancel s).1
  popCompletion : ∀ {s : State}, P s → P (popCompletion s).1
  verdict : ∀ {s : State}, P s → P (verdict s).1
  popNotice : ∀ {s : State}, P s → P (popNotice s).1
  detachSlot : ∀ {s : State} (i : Slot), P s → P (detachSlot i s).1
  releaseSlot : ∀ {s : State} (i : Slot), P s → P (releaseSlot i s).1
  renegotiateSlot : ∀ {s : State} (i : Slot), P s → P (renegotiateSlot i s).1
  softReset : ∀ {s : State}, P s → P (softReset s)
  pinReset : ∀ {s : State}, P s → P (pinReset s)
  writeRate : ∀ {s : State} (c : BitVec 2), P s → P (writeRate c s)
  writeArea : ∀ {s t : State} (v : Byte), P s → writeArea v s = some t → P t
  lineFault : ∀ {s : State} (c : FaultCause), P s → P (lineFault c s)
  lineRestored : ∀ {s : State}, P s → P (lineRestored s)
  quietTimeRestart : ∀ {s : State} (c : QuietBreak), P s → P (quietTimeRestart c s)
  msTick : ∀ {s : State} (lfltn rxd : Level), P s → P (msTick lfltn rxd s)
  updActive : ∀ {s : State} (i : Slot) (f : ActiveData → ActiveData), (∀ d, (f d).outstanding = d.outstanding) →
    P s → P (s.updEntry i (Entry.updActive f))
  expireCommands : ∀ {s : State}, P s → P (expireCommands s)
  timeOutAll : ∀ {s : State}, P s → P (timeOutAll s)
  chooseCall : ∀ {s : State}, P s → P (chooseCall s)
  callSent : ∀ {s : State}, P s → P (callSent s)
  replyStartBit : ∀ {s : State}, P s → P (replyStartBit s)
  retryGapEnd : ∀ {s : State}, P s → P (retryGapEnd s)
  endAttempt : ∀ {s : State} (o : ExchangeOutcome),
    s.link.state = .waiting ∨ s.link.state = .receiving ∨ s.link.state = .stopping → P s → P (endAttempt o s)
  broadcastEnd : ∀ {s : State}, P s → P (broadcastEnd s)

theorem takeDue_outstanding (d : ActiveData) : d.takeDue.outstanding = d.outstanding := by
  unfold ActiveData.takeDue
  split <;> rfl

theorem takeOverdue_outstanding (d : ActiveData) : d.takeOverdue.outstanding = d.outstanding := by
  unfold ActiveData.takeOverdue
  split <;> rfl

/-! ### The window and the actions -/

theorem Kept.runAction {P : State → Prop} (hP : Kept P) (code : Byte) {f : State → State × ActionResult} {s : State}
    (h : P (f s).1) : P (runAction code f s) :=
  hP.win _ (Or.inl rfl) h

theorem Kept.onSlot {P : State → Prop} {f : Slot → State → State × ActionResult} {s : State} (h : P s)
    (hf : ∀ i, P (f i s).1) : P (onSlot f s).1 := by
  unfold Machine.onSlot
  split
  · exact h
  · exact hf _

theorem Kept.actionOf {P : State → Prop} (hP : Kept P) (code : Byte) (l : Level) {s : State} (h : P s) :
    P (actionOf code l s).1 := by
  unfold Machine.actionOf
  split
  · exact hP.enableLink l h
  · exact hP.disableLink h
  · exact hP.restartLink h
  · exact hP.submit h
  · exact hP.cancel h
  · exact hP.popCompletion h
  · exact hP.verdict h
  · exact hP.popNotice h
  · exact Kept.onSlot h fun i => hP.detachSlot i h
  · exact Kept.onSlot h fun i => hP.releaseSlot i h
  · exact Kept.onSlot h fun i => hP.renegotiateSlot i h
  · exact h

theorem Kept.writeAct {P : State → Prop} (hP : Kept P) (code : Byte) {s : State} (h : P s) : P (writeAct code s) :=
  hP.runAction code (hP.actionOf code _ h)

theorem Kept.refuseAccess {P : State → Prop} (hP : Kept P) {s : State} (h : P s) : P (refuseAccess s) :=
  hP.win _ (Or.inl rfl) h

theorem Kept.takeCopy {P : State → Prop} (hP : Kept P) {s : State} (h : P s) : P (takeCopy s) := by
  unfold Machine.takeCopy
  split
  · exact hP.win _ (Or.inl rfl) h
  · exact h

theorem Kept.writeWsel {P : State → Prop} (hP : Kept P) (v : Byte) {s : State} (h : P s) : P (writeWsel v s) := by
  unfold Machine.writeWsel
  split
  · exact hP.refuseAccess h
  · exact hP.takeCopy (hP.win _ (Or.inr (Nat.zero_le _)) h)

theorem Kept.writeWidx {P : State → Prop} (hP : Kept P) (v : Byte) {s : State} (h : P s) : P (writeWidx v s) :=
  hP.takeCopy (hP.win _ (Or.inr (Nat.zero_le _)) h)

theorem Kept.writeWoff {P : State → Prop} (hP : Kept P) (v : Byte) {s : State} (h : P s) : P (writeWoff v s) :=
  hP.win _ (Or.inr (by have := v.isLt; show v.toNat ≤ 1023; omega)) h

theorem Kept.stepOffset {P : State → Prop} (hP : Kept P) {s : State} (h : P s) : P (stepOffset s) :=
  hP.win _ (Or.inr (Nat.min_le_right _ _)) h

theorem Kept.writeWdat {P : State → Prop} (hP : Kept P) (v : Byte) {s : State} (h : P s) : P (writeWdat v s) := by
  refine hP.stepOffset ?_
  cases ha : Machine.writeArea v s with
  | none => exact hP.refuseAccess h
  | some t => exact hP.writeArea v h ha

theorem Kept.clearRefused {P : State → Prop} (hP : Kept P) {s : State} (h : P s) : P (clearRefused s) :=
  hP.win _ (Or.inl rfl) h

theorem Kept.writeIen {P : State → Prop} (hP : Kept P) (v : Byte) {s : State} (h : P s) : P (writeIen v s) :=
  hP.win _ (Or.inl rfl) h

theorem Kept.writeArg {P : State → Prop} (hP : Kept P) (k : Fin 4) (v : Byte) {s : State} (h : P s) :
    P (writeArg k v s) :=
  hP.win _ (Or.inl rfl) h

theorem Kept.writeRegister {P : State → Prop} (hP : Kept P) (address : BitVec 6) (v : Byte) {s : State} (h : P s) :
    P (writeRegister address v s) := by
  unfold Machine.writeRegister
  split
  · split
    · exact hP.softReset h
    · exact hP.writeRate _ h
  · split
    · exact hP.clearRefused h
    · exact h
  · exact hP.writeIen v h
  · exact hP.writeAct v h
  · exact hP.writeArg 0 v h
  · exact hP.writeArg 1 v h
  · exact hP.writeArg 2 v h
  · exact hP.writeArg 3 v h
  · exact hP.writeWsel v h
  · exact hP.writeWidx v h
  · exact hP.writeWoff v h
  · exact hP.writeWdat v h
  · exact h

/-! ### A command and a step -/

/-- A command that acts only while RESETN is high. -/
theorem of_whileRunning {P : State → Prop} {f : State → State} {s t : State} (h : P s)
    (he : (.next (whileRunning f s) : Host.Outcome State Fault Refusal) = .next t) (hf : P (f s)) : P t := by
  cases he
  unfold whileRunning
  split
  · exact hf
  · exact h

theorem Kept.faultPins {P : State → Prop} (hP : Kept P) (c : FaultCause) {s : State} (h : P s) : P (faultPins c s) := by
  cases c with
  | lfltnLow => exact hP.pins _ h
  | echo _ _ => exact hP.pins _ h

theorem Kept.replyFrameEnd {P : State → Prop} (hP : Kept P) (first : Samples) (rest : List Samples) {s : State}
    (h : P s) : P (replyFrameEnd first rest s) := by
  unfold Machine.replyFrameEnd
  split
  next hx => exact hP.endAttempt _ (Or.inr ((exchangeIn_iff _ _ _).1 hx).2) h
  next => exact h

theorem Kept.receptionLimit {P : State → Prop} (hP : Kept P) {s : State} (h : P s) : P (receptionLimit s) := by
  unfold Machine.receptionLimit
  split
  next hx => exact hP.endAttempt _ (Or.inr ((exchangeIn_iff _ _ _).1 hx).2) h
  next => exact h

theorem Kept.replyWindowExpiry {P : State → Prop} (hP : Kept P) {s : State} (h : P s) : P (replyWindowExpiry s) := by
  unfold Machine.replyWindowExpiry
  split
  next hx => exact hP.endAttempt _ ((((exchangeIn_iff _ _ _).1 hx).2).imp id Or.inr) h
  next => exact h

theorem Kept.exec {P : State → Prop} (hP : Kept P) {i : Instr} {s t : State} (h : P s) (he : exec i s = .next t) :
    P t := by
  cases i with
  | enableLink l => exact of_whileRunning h he (hP.runAction _ (hP.enableLink l (hP.pins _ h)))
  | disableLink => exact of_whileRunning h he (hP.runAction _ (hP.disableLink h))
  | restartLink => exact of_whileRunning h he (hP.runAction _ (hP.restartLink h))
  | submit => exact of_whileRunning h he (hP.runAction _ (hP.submit h))
  | cancel => exact of_whileRunning h he (hP.runAction _ (hP.cancel h))
  | popCompletion => exact of_whileRunning h he (hP.runAction _ (hP.popCompletion h))
  | verdict => exact of_whileRunning h he (hP.runAction _ (hP.verdict h))
  | popNotice => exact of_whileRunning h he (hP.runAction _ (hP.popNotice h))
  | detach => exact of_whileRunning h he (hP.runAction _ (Kept.onSlot h fun i => hP.detachSlot i h))
  | release => exact of_whileRunning h he (hP.runAction _ (Kept.onSlot h fun i => hP.releaseSlot i h))
  | renegotiate => exact of_whileRunning h he (hP.runAction _ (Kept.onSlot h fun i => hP.renegotiateSlot i h))
  | unknownAction code => exact of_whileRunning h he (hP.writeAct code h)
  | softReset _ => exact of_whileRunning h he (hP.softReset h)
  | rateCodeWrite _ => exact of_whileRunning h he (hP.writeRate _ h)
  | accessRefusedClear _ => exact of_whileRunning h he (hP.clearRefused h)
  | ienWrite v => exact of_whileRunning h he (hP.writeIen v h)
  | wselWrite v => exact of_whileRunning h he (hP.writeWsel v h)
  | widxWrite v => exact of_whileRunning h he (hP.writeWidx v h)
  | woffWrite v => exact of_whileRunning h he (hP.writeWoff v h)
  | wdatRead =>
    change execWdatRead s = .next t at he
    unfold execWdatRead at he
    split at he
    · cases he
      exact hP.pins _ h
    · cases he
      exact hP.stepOffset (hP.pins _ h)
  | wdatWrite v => exact of_whileRunning h he (hP.writeWdat v h)
  | mscountLowRead =>
    change execMscountLowRead s = .next t at he
    unfold execMscountLowRead at he
    split at he
    · cases he
      exact hP.pins _ h
    · cases he
      exact hP.pins _ (hP.holding _ h)
  | registerWrite a v => exact of_whileRunning h he (hP.writeRegister a v h)
  | pinReset =>
    cases he
    exact hP.pinReset h
  | lineFault c => exact of_whileRunning h he (hP.lineFault c (hP.faultPins c h))
  | lineRestored => exact of_whileRunning h he (hP.lineRestored h)
  | msTick l r => exact of_whileRunning h he (hP.msTick l r h)
  | pollDue i => exact of_whileRunning h he (hP.updActive i _ takeDue_outstanding h)
  | pollOverdue i => exact of_whileRunning h he (hP.updActive i _ takeOverdue_outstanding h)
  | censusIntervalElapsed =>
    cases he
    exact h
  | holdEnd _ =>
    cases he
    exact h
  | commandExpiry => exact of_whileRunning h he (hP.expireCommands h)
  | verdictTimeout => exact of_whileRunning h he (hP.timeOutAll h)
  | callChoice => exact of_whileRunning h he (hP.chooseCall h)
  | callSent => exact of_whileRunning h he (hP.callSent h)
  | replyWindowExpiry => exact of_whileRunning h he (hP.replyWindowExpiry h)
  | retryGapEnd => exact of_whileRunning h he (hP.retryGapEnd h)
  | replyFrameEnd first rest => exact of_whileRunning h he (hP.replyFrameEnd first rest h)
  | receptionLimit => exact of_whileRunning h he (hP.receptionLimit h)
  | broadcastEnd => exact of_whileRunning h he (hP.broadcastEnd h)
  | replyStartBit => exact of_whileRunning h he (hP.replyStartBit h)
  | quietTimeRestart c => exact of_whileRunning h he (hP.quietTimeRestart c h)
  | pinResetEnd =>
    cases he
    exact hP.pins _ h

theorem Kept.step {P : State → Prop} (hP : Kept P) {s t : State} (h : P s) (hs : step s = .next t) : P t := by
  unfold Machine.step at hs
  split at hs
  · cases hs
    exact h
  · exact hP.exec (hP.pending _ h) hs

end Sys2Proof.Machine
end

section
/-! ## The configuration (O57)

No operation but the writes of Table 8-3 and of LCTL moves a parameter, so all of them but these are one lemma each. -/

namespace Sys2Proof.Machine

/-- The second state has the parameters of the first, and its window offset or one in range. -/
def SameConfig (s t : State) : Prop :=
  t.link.rate = s.link.rate ∧ t.link.replyWindow = s.link.replyWindow ∧ t.link.retryLimit = s.link.retryLimit ∧
    t.sched.missLimit = s.sched.missLimit ∧ t.sched.censusInterval = s.sched.censusInterval ∧
    t.mu.timeout = s.mu.timeout ∧ t.px.count = s.px.count ∧
    (∀ i : Slot, (t.entry i).pollPeriod = (s.entry i).pollPeriod) ∧ (t.win.offset = s.win.offset ∨ t.win.offset ≤ 1023)

theorem configOk_of_same {s t : State} (hst : SameConfig s t) (h : ConfigOk s) : ConfigOk t := by
  obtain ⟨hr, hw, hl, hm, hc, ht, hp, he, ho⟩ := hst
  obtain ⟨kr, kw, kl, km, kc, kt, kp, ke, ko⟩ := h
  refine ⟨hr ▸ kr, hw ▸ kw, hl ▸ kl, hm ▸ km, hc ▸ kc, ht ▸ kt, hp ▸ kp, fun i => he i ▸ ke i, ?_⟩
  rcases ho with ho | ho
  · exact ho ▸ ko
  · exact ho

/-! ### The actions -/

theorem enableLink_sameConfig (l : Level) (s : State) : SameConfig s (enableLink l s).1 := by
  unfold enableLink
  repeat' split
  all_goals simp [SameConfig]

theorem disableLink_sameConfig (s : State) : SameConfig s (disableLink s).1 := by
  unfold disableLink
  repeat' split
  all_goals simp [SameConfig]

theorem restartLink_sameConfig (s : State) : SameConfig s (restartLink s).1 := by
  unfold restartLink
  repeat' split
  all_goals simp [SameConfig]

theorem submit_sameConfig (s : State) : SameConfig s (submit s).1 := by
  unfold submit
  split <;> simp [SameConfig]

theorem cancel_sameConfig (s : State) : SameConfig s (cancel s).1 := by
  unfold cancel cancelFound
  split <;> simp [SameConfig]

theorem popCompletion_sameConfig (s : State) : SameConfig s (popCompletion s).1 := by
  unfold popCompletion
  split
  · simp [SameConfig]
  · simp [SameConfig]
    exact fun _ => rfl

theorem verdict_sameConfig (s : State) : SameConfig s (verdict s).1 := by
  unfold verdict judgeVerdict
  repeat' split
  all_goals simp [SameConfig]

theorem popNotice_sameConfig (s : State) : SameConfig s (popNotice s).1 := by
  unfold popNotice
  repeat' split
  all_goals exact ⟨rfl, rfl, rfl, rfl, rfl, rfl, rfl, fun _ => rfl, Or.inl rfl⟩

theorem detachSlot_sameConfig (i : Slot) (s : State) : SameConfig s (detachSlot i s).1 := by
  unfold detachSlot
  split <;> simp [SameConfig]

theorem releaseSlot_sameConfig (i : Slot) (s : State) : SameConfig s (releaseSlot i s).1 := by
  unfold releaseSlot
  split <;> simp [SameConfig]

theorem renegotiateSlot_sameConfig (i : Slot) (s : State) : SameConfig s (renegotiateSlot i s).1 := by
  unfold renegotiateSlot
  split <;> simp [SameConfig]

/-! ### The line and the time -/

theorem lineFault_sameConfig (c : FaultCause) (s : State) : SameConfig s (lineFault c s) := by
  unfold lineFault
  repeat' split
  all_goals simp [SameConfig]

theorem lineRestored_sameConfig (s : State) : SameConfig s (lineRestored s) := by
  unfold lineRestored leaveFault
  repeat' split
  all_goals simp [SameConfig]

theorem quietTimeRestart_sameConfig (c : QuietBreak) (s : State) : SameConfig s (quietTimeRestart c s) := by
  unfold quietTimeRestart breakPins
  repeat' split
  all_goals exact ⟨rfl, rfl, rfl, rfl, rfl, rfl, rfl, fun _ => rfl, Or.inl rfl⟩

theorem callSent_sameConfig (s : State) : SameConfig s (callSent s) := by
  unfold callSent
  repeat' split
  all_goals simp [SameConfig]

theorem replyStartBit_sameConfig (s : State) : SameConfig s (replyStartBit s) := by
  unfold replyStartBit
  split <;> simp [SameConfig]

theorem retryGapEnd_sameConfig (s : State) : SameConfig s (retryGapEnd s) := by
  unfold retryGapEnd
  split <;> simp [SameConfig]

theorem broadcastEnd_sameConfig (s : State) : SameConfig s (broadcastEnd s) := by
  unfold broadcastEnd
  split <;> simp [SameConfig]

theorem msTick_sameConfig (lfltn rxd : Level) (s : State) : SameConfig s (msTick lfltn rxd s) := by
  simp [SameConfig, Entry.tick]

theorem updActive_sameConfig (i : Slot) (f : ActiveData → ActiveData) (s : State) :
    SameConfig s (s.updEntry i (Entry.updActive f)) := by
  simp [SameConfig, pollPeriod_updEntry]

/-! ### The writes of the configuration -/

/-- A write of LCTL takes a rate code that is not 3 (R65). -/
theorem writeRate_configOk (c : BitVec 2) {s : State} (h : ConfigOk s) : ConfigOk (writeRate c s) := by
  unfold writeRate
  split
  · exact h
  next hc =>
    split
    · exact h
    · split
      · exact ⟨hc, h.2⟩
      all_goals exact h

/-- A write of a MODULE record that is taken keeps every poll period above 0 (R182). -/
theorem writeModule_configOk {s t : State} (v : Byte) (h : ConfigOk s) (ht : writeModule v s = some t) : ConfigOk t := by
  obtain ⟨hr, hw, hl, hm, hc, hv, hp, he, ho⟩ := h
  unfold writeModule at ht
  split at ht
  · cases ht
  next i _ =>
    dsimp only at ht
    split at ht
    · split at ht
      · cases ht
        refine ⟨hr, hw, hl, hm, hc, hv, hp, fun j => ?_, ho⟩
        rw [entry_updEntry]
        split
        · exact he i
        · exact he j
      · cases ht
    · split at ht
      · cases ht
      next hz =>
        cases ht
        refine ⟨hr, hw, hl, hm, hc, hv, hp, fun j => ?_, ho⟩
        rw [entry_updEntry]
        split
        · exact hz
        · exact he j
    · cases ht

/-- A write of PARAMS that is taken is in the range of its parameter (Table 8-3). -/
theorem writeParam_configOk {s t : State} (v : Byte) (h : ConfigOk s) (ht : writeParam v s = some t) : ConfigOk t := by
  obtain ⟨hr, hw, hl, hm, hc, hv, hp, he, ho⟩ := h
  unfold writeParam at ht
  split at ht
  · obtain ⟨hx, ⟨⟩⟩ := Option.ite_none_right_eq_some.1 ht
    exact ⟨hr, hx, hl, hm, hc, hv, hp, he, ho⟩
  · obtain ⟨hx, ⟨⟩⟩ := Option.ite_none_right_eq_some.1 ht
    exact ⟨hr, hw, hx, hm, hc, hv, hp, he, ho⟩
  · obtain ⟨hx, ⟨⟩⟩ := Option.ite_none_right_eq_some.1 ht
    exact ⟨hr, hw, hl, hx, hc, hv, hp, he, ho⟩
  · obtain ⟨hx, ⟨⟩⟩ := Option.ite_none_right_eq_some.1 ht
    exact ⟨hr, hw, hl, hm, hx, hv, hp, he, ho⟩
  · obtain ⟨hx, ⟨⟩⟩ := Option.ite_none_right_eq_some.1 ht
    exact ⟨hr, hw, hl, hm, hc, hx, hp, he, ho⟩
  · obtain ⟨⟨-, hx⟩, ⟨⟩⟩ := Option.ite_none_right_eq_some.1 ht
    exact ⟨hr, hw, hl, hm, hc, hv, hx, he, ho⟩
  · cases ht

/-- The other areas hold no parameter. -/
theorem writeArea_configOk {s t : State} (v : Byte) (h : ConfigOk s) (ht : writeArea v s = some t) : ConfigOk t := by
  unfold writeArea at ht
  split at ht
  · exact writeModule_configOk v h ht
  · unfold writeLocalPage at ht
    split at ht
    · obtain ⟨p, -, rfl⟩ := Option.map_eq_some_iff.1 ht
      exact h
    · cases ht
  · obtain ⟨-, ⟨⟩⟩ := Option.ite_none_right_eq_some.1 ht
    exact h
  · unfold writeFilter at ht
    split at ht
    · cases ht
      exact h
    · cases ht
  · obtain ⟨g, -, rfl⟩ := Option.map_eq_some_iff.1 ht
    exact h
  · exact writeParam_configOk v h ht
  all_goals cases ht

theorem configOk_reset : ConfigOk State.reset := by
  refine ⟨by decide, by decide, by decide, by decide, by decide, by decide, by decide, ?_, by decide⟩
  intro i
  simp [State.entry, State.reset, Entry.reset]

theorem pinReset_configOk (s : State) : ConfigOk (pinReset s) :=
  configOk_of_same (s := State.reset) ⟨rfl, rfl, rfl, rfl, rfl, rfl, rfl, fun _ => rfl, Or.inl rfl⟩ configOk_reset

theorem kept_configOk : Kept ConfigOk where
  pending _ h := h
  pins _ h := h
  win {s} _ hw h := configOk_of_same (s := s) ⟨rfl, rfl, rfl, rfl, rfl, rfl, rfl, fun _ => rfl, hw⟩ h
  holding _ h := h
  enableLink _ := configOk_of_same (enableLink_sameConfig _ _)
  disableLink := configOk_of_same (disableLink_sameConfig _)
  restartLink := configOk_of_same (restartLink_sameConfig _)
  submit := configOk_of_same (submit_sameConfig _)
  cancel := configOk_of_same (cancel_sameConfig _)
  popCompletion := configOk_of_same (popCompletion_sameConfig _)
  verdict := configOk_of_same (verdict_sameConfig _)
  popNotice := configOk_of_same (popNotice_sameConfig _)
  detachSlot _ := configOk_of_same (detachSlot_sameConfig _ _)
  releaseSlot _ := configOk_of_same (releaseSlot_sameConfig _ _)
  renegotiateSlot _ := configOk_of_same (renegotiateSlot_sameConfig _ _)
  softReset := configOk_of_same ⟨rfl, rfl, rfl, rfl, rfl, rfl, rfl, fun _ => by simp [Entry.softReset],
    Or.inr (Nat.zero_le _)⟩
  pinReset _ := pinReset_configOk _
  writeRate c := writeRate_configOk c
  writeArea v := writeArea_configOk v
  lineFault _ := configOk_of_same (lineFault_sameConfig _ _)
  lineRestored := configOk_of_same (lineRestored_sameConfig _)
  quietTimeRestart _ := configOk_of_same (quietTimeRestart_sameConfig _ _)
  msTick _ _ := configOk_of_same (msTick_sameConfig _ _ _)
  updActive i f _ := configOk_of_same (updActive_sameConfig i f _)
  expireCommands := configOk_of_same (by simp [SameConfig])
  timeOutAll := configOk_of_same (by simp [SameConfig])
  chooseCall := configOk_of_same (by simp [SameConfig])
  callSent := configOk_of_same (callSent_sameConfig _)
  replyStartBit := configOk_of_same (replyStartBit_sameConfig _)
  retryGapEnd := configOk_of_same (retryGapEnd_sameConfig _)
  endAttempt _ _ := configOk_of_same (by simp [SameConfig])
  broadcastEnd := configOk_of_same (broadcastEnd_sameConfig _)

/-- Settles O57: the configuration is kept by every operation, so by every step. -/
theorem stepKeepsConfigOk : Obligations.StepKeepsConfigOk := fun _ _ h hs => kept_configOk.step h hs

end Sys2Proof.Machine
end

section
/-! ## What the shared operations write

One equation per operation of Machine/Ops.lean that the claims about the module table speak of: the entry it leaves to
each slot, and what it does to the commands, the deferred queue and the notices. -/

namespace Sys2Proof.Machine

/-! ### Posting -/

theorem post_eq (k : NoticeKind) (a b : Byte) (s : State) : post k a b s = { s with nq := (post k a b s).nq } := by
  unfold post
  split <;> rfl

/-- A notice depends on the queue and on MSCOUNT alone. -/
theorem post_nq_congr {s t : State} (k : NoticeKind) (a b : Byte) (hn : s.nq = t.nq)
    (hm : s.sched.mscount = t.sched.mscount) : (post k a b s).nq = (post k a b t).nq := by
  unfold post
  rw [hn, hm]
  split <;> rfl

theorem post_setEntry (k : NoticeKind) (a b : Byte) (i : Slot) (e : Entry) (s : State) :
    post k a b (s.setEntry i e) = (post k a b s).setEntry i e := by
  unfold post
  rw [setEntry_nq, setEntry_sched]
  split <;> rfl

/-! ### Entries -/

theorem outstanding_of_active {e : Entry} {d : ActiveData} (h : e.state = .active d) :
    e.outstanding? = d.outstanding := by
  simp [Entry.outstanding?, Entry.active?, h]

theorem active_iff {e : Entry} {d : ActiveData} : e.active? = some d ↔ e.state = .active d := by
  unfold Entry.active?
  split <;> simp_all

theorem context_iff {e : Entry} {ctx : Context} : e.context? = some ctx ↔ e.state = .negotiating ctx := by
  unfold Entry.context?
  split <;> simp_all

theorem isVacant_iff {e : Entry} : e.isVacant = true ↔ e.state = .vacant := by
  unfold Entry.isVacant
  split <;> simp_all

theorem updActive_of_state {e : Entry} {d : ActiveData} (f : ActiveData → ActiveData) (h : e.state = .active d) :
    e.updActive f = { e with state := .active (f d) } := by
  simp [Entry.updActive, h]

theorem updActive_of_not {e : Entry} (f : ActiveData → ActiveData) (h : e.active? = none) : e.updActive f = e := by
  unfold Entry.updActive
  unfold Entry.active? at h
  split <;> simp_all

theorem setOutstanding_of_none {e : Entry} (h : e.outstanding? = none) : e.setOutstanding none = e := by
  cases ha : e.active? with
  | none => exact updActive_of_not _ ha
  | some d =>
    have hs := active_iff.1 ha
    have hd : d.outstanding = none := by rw [← outstanding_of_active hs]; exact h
    rw [Entry.setOutstanding, updActive_of_state _ hs, ← hd, ← hs]

@[simp] theorem setOutstanding_releaseOwed (o : Option Outstanding) (e : Entry) :
    (e.setOutstanding o).releaseOwed = e.releaseOwed := updActive_releaseOwed _ _

@[simp] theorem updActive_censusEnable (f : ActiveData → ActiveData) (e : Entry) :
    (e.updActive f).censusEnable = e.censusEnable := by
  unfold Entry.updActive
  split <;> rfl

@[simp] theorem setOutstanding_censusEnable (o : Option Outstanding) (e : Entry) :
    (e.setOutstanding o).censusEnable = e.censusEnable := updActive_censusEnable _ _

/-! ### Commands -/

/-- The outstanding command of a slot ends: its entry holds none any more, and its record, if there was one, is
appended (R120). -/
theorem completeOutstanding_eq (i : Slot) (st : CompletionStatus) (l : List Byte) (s : State) :
    completeOutstanding i st l s =
      { s with
        table := s.table.set i.val ((s.entry i).setOutstanding none)
        ce := { s.ce with
          completions := s.ce.completions ++ (s.entry i).outstanding?.toList.map fun o => o.held.completion st 0 l } } := by
  unfold completeOutstanding
  split
  next ho =>
    rw [setOutstanding_of_none ho, ho]
    have hs := setEntry_entry_self s i
    unfold State.setEntry at hs
    simp [hs]
  next o ho =>
    rw [ho]
    rfl

theorem completeOutstanding_entry (i : Slot) (st : CompletionStatus) (l : List Byte) (s : State) (j : Slot) :
    (completeOutstanding i st l s).entry j = if j = i then (s.entry i).setOutstanding none else s.entry j := by
  rw [completeOutstanding_eq]
  exact entry_setEntry i j _ s

theorem completeOutstanding_ce (i : Slot) (st : CompletionStatus) (l : List Byte) (s : State) :
    (completeOutstanding i st l s).ce =
      { s.ce with
        completions :=
          s.ce.completions ++ (s.entry i).outstanding?.toList.map fun o => o.held.completion st 0 l } := by
  rw [completeOutstanding_eq]

/-- Settling reads the commands and the number of outstanding commands, and writes the commands. -/
theorem settle_ce_congr {s t : State} (pick : QueuedCommand → Bool) (st : CompletionStatus) (hc : s.ce = t.ce)
    (ho : s.outstandingCount = t.outstandingCount) : (settle pick st s).ce = (settle pick st t).ce := by
  have hs : ∀ u : State, ∀ c : CommandEngine, { u with ce := c }.outstandingCount = u.outstandingCount := fun _ _ => rfl
  unfold settle flushSettled State.reservation
  rw [hs, hs, hc, ho]
  rfl

theorem endCommands_entry (i : Slot) (st : CompletionStatus) (s : State) (j : Slot) :
    (endCommands i st s).entry j = if j = i then (s.entry i).setOutstanding none else s.entry j := by
  unfold endCommands
  split
  · rw [settleSlot_entry, completeOutstanding_entry]
  next ha =>
    have hn : (s.entry i).outstanding? = none := by
      unfold Entry.isActive at ha
      unfold Entry.outstanding?
      cases h : (s.entry i).active? <;> simp_all
    rw [setOutstanding_of_none hn]
    split
    next h => rw [h]
    next => rfl

/-! ### The deferred queue -/

theorem deferredOf_congr {s t : State} (h : s.mu = t.mu) (i : Slot) : s.deferredOf i = t.deferredOf i := by
  unfold State.deferredOf
  rw [h]

theorem orphan_of_none {i : Slot} {s : State} (h : s.deferredOf i = none) : orphan i s = s := by
  unfold orphan
  rw [h]

theorem orphan_of_some {i : Slot} {s : State} {d : Deferred} (h : s.deferredOf i = some d) :
    orphan i s = post .deferredGone (slotByte i) (handleByte d.handle) (dropDeferred d.handle .gone s) := by
  unfold orphan
  rw [h]

theorem orphan_queue_of_some {i : Slot} {s : State} {d : Deferred} (h : s.deferredOf i = some d) :
    (orphan i s).mu.queue = s.mu.queue.filter fun y => y.handle != d.handle := by
  rw [orphan_of_some h, post_mu]
  rfl

theorem orphan_handles_of_some {i : Slot} {s : State} {d : Deferred} (h : s.deferredOf i = some d) :
    (orphan i s).mu.handles = s.mu.handles.set d.handle.val ⟨s.mu.handles[d.handle.val].generation, .gone⟩ := by
  rw [orphan_of_some h, post_mu]
  rfl

theorem orphan_nq_of_some {i : Slot} {s : State} {d : Deferred} (h : s.deferredOf i = some d) :
    (orphan i s).nq = (post .deferredGone (slotByte i) (handleByte d.handle) s).nq := by
  rw [orphan_of_some h]
  exact post_nq_congr _ _ _ rfl rfl

theorem orphan_mu_congr {i : Slot} {s t : State} (h : s.mu = t.mu) : (orphan i s).mu = (orphan i t).mu := by
  unfold orphan dropDeferred
  rw [deferredOf_congr h i]
  split
  · exact h
  · rw [post_mu, post_mu, h]

theorem orphan_nq_congr {i : Slot} {s t : State} (h : s.mu = t.mu) (hn : s.nq = t.nq)
    (hm : s.sched.mscount = t.sched.mscount) : (orphan i s).nq = (orphan i t).nq := by
  unfold orphan
  rw [deferredOf_congr h i]
  split
  · exact hn
  · exact post_nq_congr _ _ _ hn hm

/-! ### Entering VACANT -/

/-- An entry made VACANT: nothing is kept of it but its census enable, its poll period and its release owed
(Table 1-3, R17). -/
def Entry.emptied (e : Entry) : Entry :=
  { Entry.reset with censusEnable := e.censusEnable, pollPeriod := e.pollPeriod, releaseOwed := e.releaseOwed }

theorem enterVacant_entry (i : Slot) (st : CompletionStatus) (s : State) (j : Slot) :
    (enterVacant i st s).entry j = if j = i then (s.entry i).emptied else s.entry j := by
  unfold enterVacant
  rw [orphan_entry, clearOwed_entry, entry_updEntry_same, entry_updEntry, endCommands_entry, endCommands_entry]
  split
  · simp [Entry.emptied, Entry.reset]
  · rfl

theorem enterVacant_sched (i : Slot) (st : CompletionStatus) (s : State) :
    (enterVacant i st s).sched = { s.sched with owed := s.sched.owed.filter fun j => j != i } := by
  simp [enterVacant]

theorem enterVacant_ce (i : Slot) (st : CompletionStatus) (s : State) :
    (enterVacant i st s).ce = (endCommands i st s).ce := by
  simp [enterVacant]

/-- What an entry made VACANT orphans is found in the queue as it was: the steps before leave it alone. -/
theorem enterVacant_mu (i : Slot) (st : CompletionStatus) (s : State) : (enterVacant i st s).mu = (orphan i s).mu :=
  orphan_mu_congr (by simp)

theorem enterVacant_nq (i : Slot) (st : CompletionStatus) (s : State) : (enterVacant i st s).nq = (orphan i s).nq :=
  orphan_nq_congr (by simp) (by simp) (by simp)

/-! ### The restart of the table -/

theorem restartEntry_entry (s : State) (i j : Slot) :
    (restartEntry s i).entry j =
      if j = i ∧ (s.entry i).state ≠ .vacant then (s.entry i).emptied else s.entry j := by
  unfold restartEntry
  split
  next h => simp [isVacant_iff.1 h]
  next h =>
    have hv : (s.entry i).state ≠ .vacant := fun hx => h (isVacant_iff.2 hx)
    rw [enterVacant_entry]
    simp [hv]

theorem restartFold_entry (l : List Slot) (s : State) (j : Slot) :
    (l.foldl restartEntry s).entry j =
      if j ∈ l ∧ (s.entry j).state ≠ .vacant then (s.entry j).emptied else s.entry j := by
  induction l generalizing s with
  | nil => simp
  | cons i l ih =>
    rw [List.foldl_cons, ih, restartEntry_entry]
    by_cases hj : j = i
    · subst hj
      by_cases hv : (s.entry j).state = .vacant
      · simp [hv]
      · simp [hv, Entry.emptied, Entry.reset]
    · simp [hj]

theorem mem_allSlots (j : Slot) : j ∈ allSlots := List.mem_finRange j

/-- A restart leaves every entry VACANT with no release owed, and keeps of those that were not VACANT the census enable
and the poll period (R33). -/
theorem restartTable_entry_eq (s : State) (j : Slot) :
    (restartTable s).entry j =
      if (s.entry j).state = .vacant then { s.entry j with releaseOwed := false }
      else { Entry.reset with censusEnable := (s.entry j).censusEnable, pollPeriod := (s.entry j).pollPeriod } := by
  rw [restartTable_entry, restartFold_entry]
  by_cases hv : (s.entry j).state = .vacant
  · simp [hv]
  · simp [hv, mem_allSlots, Entry.emptied, Entry.reset]

end Sys2Proof.Machine
end

section
/-! ## The module table (O58)

What the link's call asks of the entry it is for, and that every operation either keeps it or ends the call. -/

namespace Sys2Proof.Machine

/-- What a CENSUS call asks of its entry is kept, and what a PAGE call asks is kept. -/
def CallKept (e f : Entry) : Prop :=
  (e.state = .vacant ∧ e.releaseOwed = false → f.state = .vacant ∧ f.releaseOwed = false) ∧
    ((∀ ctx, e.context? = some ctx → ctx.phase = .exchange) → ∀ ctx, f.context? = some ctx → ctx.phase = .exchange)

theorem CallKept.refl (e : Entry) : CallKept e e := ⟨id, id⟩

theorem CallKept.trans {e f g : Entry} (h : CallKept e f) (k : CallKept f g) : CallKept e g :=
  ⟨fun x => k.1 (h.1 x), fun x => k.2 (h.2 x)⟩

theorem callKept_of_same {e f : Entry} (hs : f.state = e.state) (hr : f.releaseOwed = e.releaseOwed) : CallKept e f := by
  unfold CallKept Entry.context?
  rw [hs, hr]
  exact ⟨id, id⟩

theorem callKept_of_vacant {e f : Entry} (hs : f.state = .vacant)
    (hr : e.state = .vacant → e.releaseOwed = false → f.releaseOwed = false) : CallKept e f := by
  refine ⟨fun h => ⟨hs, hr h.1 h.2⟩, fun _ ctx hc => ?_⟩
  rw [context_iff, hs] at hc
  cases hc

theorem callKept_updActive (f : ActiveData → ActiveData) (e : Entry) : CallKept e (e.updActive f) := by
  cases ha : e.active? with
  | none =>
    rw [updActive_of_not f ha]
    exact CallKept.refl e
  | some d =>
    have hs := active_iff.1 ha
    rw [updActive_of_state f hs]
    refine ⟨fun h => ?_, fun _ ctx hc => by cases hc⟩
    rw [hs] at h
    cases h.1

/-- Every entry keeps what a call on the link asks of it. -/
def TableKept (s t : State) : Prop := ∀ i : Slot, CallKept (s.entry i) (t.entry i)

theorem TableKept.trans {s t u : State} (h : TableKept s t) (k : TableKept t u) : TableKept s u :=
  fun i => (h i).trans (k i)

theorem tableKept_of_table {s t : State} (h : t.table = s.table) : TableKept s t := fun i => by
  rw [entry_congr h]
  exact CallKept.refl _

theorem tableKept_updEntry (i : Slot) (f : Entry → Entry) {s : State} (h : CallKept (s.entry i) (f (s.entry i))) :
    TableKept s (s.updEntry i f) := fun j => by
  rw [entry_updEntry]
  split
  next hj => rw [hj]; exact h
  next => exact CallKept.refl _

theorem TableOk.entries {s : State} (h : TableOk s) : EntriesOk s := ⟨h.1, h.2.1⟩

theorem tableOk_of_kept {s t : State} (h : TableOk s) (he : EntriesOk t)
    (hc : t.link.current = s.link.current) (hk : TableKept s t) : TableOk t := by
  obtain ⟨-, -, hcensus, hpage⟩ := h
  refine ⟨he.1, he.2, fun i hi => (hk i).1 (hcensus i ?_), fun i ctx hi => (hk i).2 (fun ctx => hpage i ctx ?_) ctx⟩
  · unfold State.callIs at hi ⊢
    rw [← hc]
    exact hi
  · unfold State.callIs at hi ⊢
    rw [← hc]
    exact hi

theorem tableOk_congr {s t : State} (ht : t.table = s.table) (hc : t.link.current = s.link.current) (h : TableOk s) :
    TableOk t :=
  tableOk_of_kept h (entriesOk_congr ht h.entries) hc (tableKept_of_table ht)

theorem tableOk_of_no_call {s : State} (he : EntriesOk s) (hc : s.link.current = none) : TableOk s := by
  refine ⟨he.1, he.2, fun i hi => ?_, fun i ctx hi => ?_⟩ <;>
  · obtain ⟨c, h, -⟩ := hi
    rw [hc] at h
    cases h

/-! ### Operations on the table -/

theorem completeOutstanding_tableKept (i : Slot) (st : CompletionStatus) (l : List Byte) (s : State) :
    TableKept s (completeOutstanding i st l s) := fun j => by
  rw [completeOutstanding_entry]
  split
  next hj => rw [hj]; exact callKept_updActive _ _
  next => exact CallKept.refl _

theorem completeOutstanding_tableOk (i : Slot) (st : CompletionStatus) (l : List Byte) {s : State} (h : TableOk s) :
    TableOk (completeOutstanding i st l s) :=
  tableOk_of_kept h (completeOutstanding_entriesOk i st l h.entries) (by simp) (completeOutstanding_tableKept i st l s)

theorem expireFold_tableOk (l : List (Nat × Slot)) {s : State} (h : TableOk s) :
    TableOk (l.foldl expireOutstanding s) := by
  induction l generalizing s with
  | nil => exact h
  | cons x l ih => exact ih (completeOutstanding_tableOk _ _ _ h)

theorem expireCommands_tableOk {s : State} (h : TableOk s) : TableOk (expireCommands s) :=
  tableOk_congr (s := (s.expiredOutstanding.foldr insertByPlace []).foldl expireOutstanding s) (by simp [expireCommands])
    (by simp) (expireFold_tableOk _ h)

theorem decideEntry_tableOk (d : Deferred) (x : Decision) {s : State} (h : TableOk s) : TableOk (decideEntry d x s) := by
  refine tableOk_of_kept h (oweVerdict_entriesOk _ _ _ (entriesOk_congr rfl h.entries)) rfl fun j => ?_
  rw [decideEntry_entry]
  split
  next hj => rw [hj]; exact callKept_of_same rfl rfl
  next => exact CallKept.refl _

theorem timeOutFold_tableOk (l : List Deferred) {s : State} (h : TableOk s) : TableOk (l.foldl timeOut s) := by
  induction l generalizing s with
  | nil => exact h
  | cons d l ih => exact ih (tableOk_congr (post_table _ _ _ _) (by simp) (decideEntry_tableOk d _ h))

theorem enterVacant_tableOk (i : Slot) (st : CompletionStatus) {s : State} (h : TableOk s) :
    TableOk (enterVacant i st s) := by
  refine tableOk_of_kept h (enterVacant_entriesOk i st h.entries) (by simp) fun j => ?_
  rw [enterVacant_entry]
  split
  next hj => rw [hj]; exact callKept_of_vacant rfl fun _ hr => hr
  next => exact CallKept.refl _

theorem updEntry_tableOk (i : Slot) (f : Entry → Entry) {s : State} (h : TableOk s)
    (hf : (s.entry i).Ok → (f (s.entry i)).Ok) (hp : (f (s.entry i)).pages.length ≤ (s.entry i).pages.length)
    (hk : CallKept (s.entry i) (f (s.entry i))) : TableOk (s.updEntry i f) :=
  tableOk_of_kept h (entriesOk_updEntry i f h.entries hf hp) rfl (tableKept_updEntry i f hk)

theorem clearCensus_tableOk (i : Slot) {s : State} (h : TableOk s) : TableOk (clearCensus i s) :=
  updEntry_tableOk i _ h id (Nat.le_refl _) (callKept_of_same rfl rfl)

/-- A release becomes owed to a VACANT entry that no CENSUS call on the link is for (R10, R23). -/
theorem oweRelease_tableOk (i : Slot) {s : State} (h : TableOk s) (hv : (s.entry i).state = .vacant)
    (hc : ¬ s.callIs .census i) : TableOk (oweRelease i s) := by
  have he : EntriesOk (oweRelease i s) :=
    entriesOk_updEntry i _ h.entries (fun hk => ⟨fun _ => hv, hk.2.1, hk.2.2⟩) (Nat.le_refl _)
  refine ⟨he.1, he.2, fun j hj => ?_, fun j ctx hj hx => ?_⟩
  · have hij : j ≠ i := fun hx => hc (hx ▸ hj)
    rw [oweRelease, entry_updEntry_ne hij]
    exact h.2.2.1 j hj
  · refine h.2.2.2 j ctx hj ?_
    rw [oweRelease, entry_updEntry] at hx
    split at hx
    next hji => rw [hji]; exact hx
    next => exact hx

/-- No CENSUS call on the link is for an entry that is not VACANT. -/
theorem TableOk.no_census {s : State} (h : TableOk s) {i : Slot} (hv : (s.entry i).state ≠ .vacant) :
    ¬ s.callIs .census i := fun hc => hv (h.2.2.1 i hc).1

theorem enterVacant_state (i : Slot) (st : CompletionStatus) (s : State) :
    ((enterVacant i st s).entry i).state = .vacant := by
  simp [enterVacant_entry, Entry.emptied, Entry.reset]

theorem callIs_of_link {s t : State} (h : t.link = s.link) (k : CallKind) (i : Slot) : t.callIs k i ↔ s.callIs k i := by
  unfold State.callIs
  rw [h]

theorem detachSlot_tableOk (i : Slot) {s : State} (h : TableOk s) : TableOk (detachSlot i s).1 := by
  have hd := clearCensus_tableOk i (enterVacant_tableOk i .detached h)
  have ho : (s.entry i).state ≠ .vacant → TableOk (oweRelease i (clearCensus i (enterVacant i .detached s))) := fun hv => by
    refine oweRelease_tableOk i hd ?_ ?_
    · rw [clearCensus, entry_updEntry_same]
      exact enterVacant_state i _ s
    · rw [callIs_of_link (s := s) (by simp)]
      exact h.no_census hv
  unfold detachSlot
  split
  next => exact h
  next => exact hd
  next hs => exact ho (by rw [hs]; intro hx; cases hx)
  next hs => exact ho (by rw [hs]; intro hx; cases hx)
  next hs => exact ho (by rw [hs]; intro hx; cases hx)

theorem releaseSlot_tableOk (i : Slot) {s : State} (h : TableOk s) : TableOk (releaseSlot i s).1 := by
  have hd := enterVacant_tableOk i .detached h
  unfold releaseSlot
  split
  next hs =>
    refine oweRelease_tableOk i hd (enterVacant_state i _ s) ?_
    rw [callIs_of_link (s := s) (by simp)]
    exact h.no_census (by rw [hs]; intro hx; cases hx)
  all_goals assumption

theorem renegotiate_tableOk (i : Slot) (c : Byte) {s : State} (h : TableOk s) {d : ActiveData}
    (hs : (s.entry i).state = .active d) : TableOk (renegotiate i c s) := by
  have hr := notOwed_of_ok (h.1 i) (by rw [hs]; intro hx; cases hx)
  refine tableOk_of_kept h (renegotiate_entriesOk i c h.entries hr) (by simp) fun j => ?_
  unfold renegotiate
  rw [post_entry, entry_updEntry]
  split
  next hj =>
    subst hj
    refine ⟨fun hv => ?_, fun _ ctx hc => ?_⟩
    · rw [hs] at hv
      cases hv.1
    · cases hc
      rfl
  next hj =>
    rw [completeOutstanding_entry, if_neg hj]
    exact CallKept.refl _

/-! ### The resets and the tick -/

theorem pagesHeld_eq_zero {s : State} (h : ∀ e ∈ s.table, e.pages = []) : s.pagesHeld = 0 := by
  unfold State.pagesHeld
  rw [List.sum_eq_zero_iff]
  intro n hn
  obtain ⟨e, he, rfl⟩ := List.mem_map.1 hn
  rw [h e (Vector.mem_toList_iff.1 he)]
  rfl

theorem emptied_ok (b : Bool) (p : Byte) : Entry.Ok { Entry.reset with censusEnable := b, pollPeriod := p } :=
  ⟨fun _ => rfl, fun h => absurd rfl h, fun _ h => by cases h⟩

theorem softReset_tableOk (s : State) : TableOk (softReset s) := by
  refine tableOk_of_no_call ⟨fun i => ?_, ?_⟩ rfl
  · rw [softReset_entry]
    exact emptied_ok _ _
  · rw [pagesHeld_eq_zero]
    · exact Nat.zero_le _
    · intro e he
      obtain ⟨x, -, rfl⟩ := Vector.mem_map.1 he
      rfl

theorem pinReset_tableOk (s : State) : TableOk (pinReset s) := by
  refine tableOk_of_no_call ⟨fun i => ?_, ?_⟩ rfl
  · have he : (pinReset s).entry i = Entry.reset := by simp [pinReset, State.entry, State.reset]
    rw [he]
    exact emptied_ok _ _
  · rw [pagesHeld_eq_zero]
    · exact Nat.zero_le _
    · intro e he
      rw [(Vector.mem_replicate.1 he).2]
      rfl

theorem tick_pages (now : BitVec 16) (e : Entry) : (e.tick now).pages = e.pages := by
  simp [Entry.tick]

theorem tick_callKept (now : BitVec 16) (e : Entry) : CallKept e (e.tick now) :=
  (callKept_of_same (e := e) (f := { e with hold := if e.hold = 0 then 0 else e.hold - 1 }) rfl rfl).trans
    (callKept_updActive _ _)

/-- A tick starts no hold (R8). -/
theorem tick_ok (now : BitVec 16) {e : Entry} (h : e.Ok) : (e.tick now).Ok := by
  refine updActive_ok (e := { e with hold := if e.hold = 0 then 0 else e.hold - 1 }) _ ⟨h.1, fun hx => ?_, h.2.2⟩
  refine h.2.1 fun h0 => hx ?_
  simp [h0]

theorem msTick_tableOk (lfltn rxd : Level) {s : State} (h : TableOk s) : TableOk (msTick lfltn rxd s) := by
  refine tableOk_of_kept h ⟨fun i => ?_, ?_⟩ ?_ fun i => ?_
  · rw [msTick_entry]
    exact tick_ok _ (h.1 i)
  · have hp := h.2.1
    unfold State.pagesHeld at *
    simpa [msTick, Vector.toList_map, List.map_map, Function.comp_def, tick_pages] using hp
  · show (s.link.tick lfltn rxd).current = _
    unfold LinkEngine.tick
    split <;> rfl
  · rw [msTick_entry]
    exact tick_callKept _ _

/-! ### The exchange -/

theorem restartTable_tableOk {s : State} (h : TableOk s) : TableOk (restartTable s) := by
  refine tableOk_of_kept h (restartTable_entriesOk h.entries) (by simp) fun i => ?_
  rw [restartTable_entry_eq]
  split
  next hv => exact callKept_of_vacant hv fun _ _ => rfl
  next => exact callKept_of_vacant rfl fun _ _ => rfl

theorem beginRestart_tableOk {s : State} (h : TableOk s) : TableOk (beginRestart s) :=
  tableOk_congr (enterBroadcasting_table _) (by simp [beginRestart_link])
    (restartTable_tableOk (s := s.setLink { s.link with restartPending := false }) (tableOk_congr rfl rfl h))

theorem afterWork_tableOk {s : State} (h : TableOk s) : TableOk (afterWork s) := by
  unfold afterWork
  repeat' split
  · exact beginRestart_tableOk h
  · exact tableOk_congr rfl rfl h
  · exact tableOk_congr rfl rfl h

/-- An exchange that ends leaves no call on the link; one that goes on changes no entry. -/
theorem endAttempt_tableOk (o : ExchangeOutcome) {s : State} (h : TableOk s) : TableOk (endAttempt o s) := by
  unfold endAttempt
  split
  next => exact h
  next c hc =>
    split
    · exact tableOk_congr rfl rfl h
    · refine afterWork_tableOk (tableOk_of_no_call (entriesOk_congr rfl ?_) rfl)
      refine deliver_entriesOk c o h.entries (fun hk => ?_) (fun hk ctx hx => ?_)
      · exact (h.2.2.1 c.slot ⟨c, hc, hk, rfl⟩).2
      · exact h.2.2.2 c.slot ctx ⟨c, hc, hk, rfl⟩ hx

theorem handIn_tableOk (c : Call) {s : State} (he : EntriesOk s)
    (hc : c.kind = .census → (s.entry c.slot).state = .vacant ∧ (s.entry c.slot).releaseOwed = false)
    (hp : c.kind = .page → ∀ ctx, (s.entry c.slot).context? = some ctx → ctx.phase = .exchange) :
    TableOk (handIn c s) := by
  refine ⟨he.1, he.2, fun i hi => ?_, fun i ctx hi hx => ?_⟩
  · obtain ⟨c', hc', hk, rfl⟩ := hi
    cases hc'
    exact hc hk
  · obtain ⟨c', hc', hk, rfl⟩ := hi
    cases hc'
    exact hp hk ctx hx

theorem nextWork_census {s : State} {i : Slot} (h : s.nextWork = some (.census i)) : s.censusEligible i = true := by
  simp only [State.nextWork, Option.orElse_eq_orElse, Option.orElse_eq_or, Option.or_eq_some_iff] at h
  simp only [State.releaseWork, State.verdictWork, State.negotiationWork, State.overdueWork, State.commandWork,
    State.dueWork, State.fetchWork, Option.map_eq_some_iff, reduceCtorEq, and_false, exists_false, false_or,
    Option.ite_none_left_eq_some] at h
  obtain ⟨-, -, -, -, -, -, -, h⟩ := h
  unfold State.censusWork at h
  split at h
  · cases h
  · obtain ⟨j, hj, hji⟩ := Option.map_eq_some_iff.1 h
    cases hji
    exact List.find?_some hj

theorem takeWork_tableOk {w : Work} {s : State} (h : TableOk s) (hw : s.nextWork = some w) : TableOk (takeWork w s) := by
  cases w with
  | release i => exact handIn_tableOk _ h.entries (fun hk => by cases hk) (fun hk => by cases hk)
  | verdict i => exact handIn_tableOk _ h.entries (fun hk => by cases hk) (fun hk => by cases hk)
  | negotiation i =>
    unfold takeWork
    dsimp only
    split
    next => exact h
    next ctx hx =>
      refine handIn_tableOk _ (entriesOk_congr rfl h.entries) (fun hk => ?_) (fun hk ctx' hx' => ?_)
      · unfold negotiationCall at hk
        split at hk <;> cases hk
      · unfold negotiationCall at hk hx'
        split at hk
        next hp =>
          rw [hp] at hx'
          have hcc : ctx' = ctx := Option.some.inj (hx'.symm.trans hx)
          rw [hcc]
          exact hp
        next => cases hk
  | overduePoll i => exact handIn_tableOk _ h.entries (fun hk => by cases hk) (fun hk => by cases hk)
  | command q =>
    refine handIn_tableOk _ (entriesOk_congr (s := s.updEntry q.held.cmd.target fun e => { e with seqBit := !e.seqBit })
      rfl ?_) (fun hk => by cases hk) (fun hk => by cases hk)
    exact entriesOk_updEntry_same _ _ h.entries (fun _ => rfl) (fun _ => rfl) (fun _ => rfl) (fun _ => rfl)
  | fetch i =>
    exact handIn_tableOk _ (entriesOk_congr rfl h.entries) (fun hk => by cases hk) (fun hk => by cases hk)
  | duePoll i => exact handIn_tableOk _ h.entries (fun hk => by cases hk) (fun hk => by cases hk)
  | census i =>
    refine handIn_tableOk _ (entriesOk_congr rfl h.entries) (fun _ => ?_) (fun hk => by cases hk)
    have hi := nextWork_census hw
    simp only [State.censusEligible, Bool.and_eq_true, Bool.not_eq_true', isVacant_iff] at hi
    exact ⟨hi.1.1, hi.2⟩

theorem chooseCall_tableOk {s : State} (h : TableOk s) : TableOk (chooseCall s) := by
  unfold chooseCall
  split
  · split
    next => exact h
    next w hw => exact takeWork_tableOk h hw
  all_goals exact h

/-! ### The remaining operations, which leave the table and the call alone -/

theorem enableLink_tableOk (l : Level) {s : State} (h : TableOk s) : TableOk (enableLink l s).1 := by
  unfold enableLink
  repeat' split
  all_goals exact tableOk_congr (by simp) (by simp [takeFault_link, enterIdle]) h

theorem disableLink_tableOk {s : State} (h : TableOk s) : TableOk (disableLink s).1 := by
  unfold disableLink
  repeat' split
  all_goals exact tableOk_congr rfl rfl h

theorem restartLink_tableOk {s : State} (h : TableOk s) : TableOk (restartLink s).1 := by
  unfold restartLink
  split
  · exact h
  · exact beginRestart_tableOk h
  all_goals exact tableOk_congr rfl rfl h

theorem submit_tableOk {s : State} (h : TableOk s) : TableOk (submit s).1 := by
  unfold submit
  split <;> exact tableOk_congr rfl rfl h

theorem cancel_tableOk {s : State} (h : TableOk s) : TableOk (cancel s).1 := by
  unfold cancel cancelFound
  split
  · exact h
  · exact tableOk_congr rfl rfl h
  · exact tableOk_congr rfl rfl h
  · exact completeOutstanding_tableOk _ _ _ h

theorem popCompletion_tableOk {s : State} (h : TableOk s) : TableOk (popCompletion s).1 := by
  unfold popCompletion
  split <;> exact tableOk_congr rfl rfl h

theorem judgeVerdict_tableOk (g : Handle) (generation : Byte) (v : VerdictCode × Byte) {s : State} (h : TableOk s) :
    TableOk (judgeVerdict g generation v s).1 := by
  unfold judgeVerdict
  split
  · exact h
  split
  · exact h
  split
  · exact h
  · exact decideEntry_tableOk _ _ h

theorem verdict_tableOk {s : State} (h : TableOk s) : TableOk (verdict s).1 := by
  unfold verdict
  split
  · exact h
  split
  · exact h
  · exact judgeVerdict_tableOk _ _ _ h

theorem popNotice_tableOk {s : State} (h : TableOk s) : TableOk (popNotice s).1 := by
  unfold popNotice
  repeat' split
  all_goals exact tableOk_congr rfl rfl h

theorem renegotiateSlot_tableOk (i : Slot) {s : State} (h : TableOk s) : TableOk (renegotiateSlot i s).1 := by
  unfold renegotiateSlot
  split
  next hs => exact renegotiate_tableOk i 2 h hs
  all_goals exact h

theorem writeRate_tableOk (c : BitVec 2) {s : State} (h : TableOk s) : TableOk (writeRate c s) := by
  unfold writeRate
  repeat' split
  all_goals exact tableOk_congr rfl rfl h

/-- A write of WDAT writes no field of an entry but its census enable and its poll period (R182). -/
theorem writeArea_tableOk {s t : State} (v : Byte) (h : TableOk s) (ht : writeArea v s = some t) : TableOk t := by
  unfold writeArea at ht
  split at ht
  · unfold writeModule at ht
    split at ht
    · cases ht
    · dsimp only at ht
      split at ht
      · obtain ⟨-, ⟨⟩⟩ := Option.ite_none_right_eq_some.1 ht
        exact updEntry_tableOk (s := { s with win := _ }) _ _ h id (Nat.le_refl _) (callKept_of_same rfl rfl)
      · obtain ⟨-, ⟨⟩⟩ := Option.ite_none_left_eq_some.1 ht
        exact updEntry_tableOk (s := { s with win := _ }) _ _ h id (Nat.le_refl _) (callKept_of_same rfl rfl)
      · cases ht
  · unfold writeLocalPage at ht
    split at ht
    · obtain ⟨p, -, rfl⟩ := Option.map_eq_some_iff.1 ht
      exact h
    · cases ht
  · obtain ⟨-, ⟨⟩⟩ := Option.ite_none_right_eq_some.1 ht
    exact h
  · unfold writeFilter at ht
    split at ht
    · cases ht
      exact h
    · cases ht
  · obtain ⟨g, -, rfl⟩ := Option.map_eq_some_iff.1 ht
    exact h
  · unfold writeParam at ht
    split at ht
    case h_7 => cases ht
    all_goals
      obtain ⟨-, ⟨⟩⟩ := Option.ite_none_right_eq_some.1 ht
      exact tableOk_congr rfl rfl h
  all_goals cases ht

theorem lineFault_tableOk (c : FaultCause) {s : State} (h : TableOk s) : TableOk (lineFault c s) := by
  unfold lineFault
  repeat' split
  all_goals exact tableOk_congr (by simp) (by simp [takeFault_link]) h

theorem lineRestored_tableOk {s : State} (h : TableOk s) : TableOk (lineRestored s) := by
  have hp : TableOk (post .lineRestored 0 0 s) := tableOk_congr (by simp) (by simp) h
  unfold lineRestored
  split
  · split
    · unfold leaveFault
      repeat' split
      · exact tableOk_congr rfl rfl hp
      · exact tableOk_congr rfl rfl hp
      · exact afterWork_tableOk hp
    · exact h
  all_goals exact h

theorem quietTimeRestart_tableOk (c : QuietBreak) {s : State} (h : TableOk s) : TableOk (quietTimeRestart c s) := by
  unfold quietTimeRestart breakPins
  repeat' split
  all_goals exact tableOk_congr rfl rfl h

theorem callSent_tableOk {s : State} (h : TableOk s) : TableOk (callSent s) := by
  unfold callSent
  repeat' split
  all_goals exact tableOk_congr rfl rfl h

theorem replyStartBit_tableOk {s : State} (h : TableOk s) : TableOk (replyStartBit s) := by
  unfold replyStartBit
  split <;> exact tableOk_congr rfl rfl h

theorem retryGapEnd_tableOk {s : State} (h : TableOk s) : TableOk (retryGapEnd s) := by
  unfold retryGapEnd
  split <;> exact tableOk_congr rfl rfl h

theorem broadcastEnd_tableOk {s : State} (h : TableOk s) : TableOk (broadcastEnd s) := by
  unfold broadcastEnd
  split
  · exact afterWork_tableOk h
  all_goals exact h

theorem kept_tableOk : Kept TableOk where
  pending _ h := h
  pins _ h := h
  win _ _ h := h
  holding _ h := h
  enableLink l := enableLink_tableOk l
  disableLink := disableLink_tableOk
  restartLink := restartLink_tableOk
  submit := submit_tableOk
  cancel := cancel_tableOk
  popCompletion := popCompletion_tableOk
  verdict := verdict_tableOk
  popNotice := popNotice_tableOk
  detachSlot i := detachSlot_tableOk i
  releaseSlot i := releaseSlot_tableOk i
  renegotiateSlot i := renegotiateSlot_tableOk i
  softReset _ := softReset_tableOk _
  pinReset _ := pinReset_tableOk _
  writeRate c := writeRate_tableOk c
  writeArea v := writeArea_tableOk v
  lineFault c := lineFault_tableOk c
  lineRestored := lineRestored_tableOk
  quietTimeRestart c := quietTimeRestart_tableOk c
  msTick l r := msTick_tableOk l r
  updActive i f _ h := updEntry_tableOk i _ h (updActive_ok f) (by simp) (callKept_updActive f _)
  expireCommands := expireCommands_tableOk
  timeOutAll := timeOutFold_tableOk _
  chooseCall := chooseCall_tableOk
  callSent := callSent_tableOk
  replyStartBit := replyStartBit_tableOk
  retryGapEnd := retryGapEnd_tableOk
  endAttempt o _ := endAttempt_tableOk o
  broadcastEnd := broadcastEnd_tableOk

/-- Settles O58: the entries and the call on the link are kept by every operation, so by every step. -/
theorem stepKeepsTableOk : Obligations.StepKeepsTableOk := fun _ _ h hs => kept_tableOk.step h hs

end Sys2Proof.Machine
end

section
/-! ## The ends of exchanges (O27, O28, O31, O32, O38, O49)

What each delivery does, by the state of the entry and the outcome. -/

namespace Sys2Proof.Machine

/-! ### An exchange that ends is delivered to the block of its kind -/

section
variable {i : Instr} {c : Call} {o : ExchangeOutcome} {s : State} (h : ExchangeEnds i c o s)
include h

theorem exec_census_end (hk : c.kind = .census) : exec i s = .next (finishExchange (deliverCensus c.slot o s)) := by
  rw [exec_of_exchangeEnds h, deliver, hk]

theorem exec_settle_end (hk : c.kind = .settle) : exec i s = .next (finishExchange (deliverSettle c.slot o s)) := by
  rw [exec_of_exchangeEnds h, deliver, hk]

theorem exec_poll_end (hk : c.kind = .poll) : exec i s = .next (finishExchange (deliverPoll c.slot o s)) := by
  rw [exec_of_exchangeEnds h, deliver, hk]

theorem exec_fetch_end (hk : c.kind = .fetch) : exec i s = .next (finishExchange (deliverFetch c.slot o s)) := by
  rw [exec_of_exchangeEnds h, deliver, hk]

theorem exec_verdict_end (hk : c.kind = .verdict) : exec i s = .next (finishExchange (deliverVerdict c.slot o s)) := by
  rw [exec_of_exchangeEnds h, deliver, hk]

theorem exec_release_end (hk : c.kind = .release) : exec i s = .next (finishExchange (deliverRelease c.slot s)) := by
  rw [exec_of_exchangeEnds h, deliver, hk]

end

/-! ### CENSUS (O31) -/

section
variable {k : Slot} {s : State} (hv : (s.entry k).state = .vacant) (he : (s.entry k).censusEnable = true)
include hv he

theorem deliverCensus_hello (cls : BitVec 4) (q : Bool) :
    deliverCensus k (.reply (.hello (slotByte k) cls) q) s = enterNegotiating k cls s := by
  simp [deliverCensus, isVacant_iff.2 hv, he]

theorem deliverCensus_mismatch {slot : Byte} (hs : slot ≠ slotByte k) (cls : BitVec 4) (q : Bool) :
    deliverCensus k (.reply (.hello slot cls) q) s = stopCensus k .slotMismatch slot s := by
  simp [deliverCensus, isVacant_iff.2 hv, he, hs]

theorem deliverCensus_garble : deliverCensus k .garble s = stopCensus k .slotConflict 0 s := by
  simp [deliverCensus, isVacant_iff.2 hv, he]

end

theorem deliverCensus_silence (k : Slot) (s : State) : deliverCensus k .silence s = s := by
  unfold deliverCensus
  split <;> rfl

theorem deliverCensus_discarded {k : Slot} {s : State}
    (h : (s.entry k).state ≠ .vacant ∨ (s.entry k).censusEnable = false) (o : ExchangeOutcome) :
    deliverCensus k o s = s := by
  unfold deliverCensus
  rw [if_neg]
  rw [Bool.and_eq_true, isVacant_iff]
  rintro ⟨hv, he⟩
  rcases h with h | h
  · exact h hv
  · rw [he] at h
    cases h

/-- Settles O31: the branches of deliverCensus. -/
theorem censusExchangeEnd : Obligations.CensusExchangeEnd := by
  intro i c o s h hk
  have hx := exec_census_end h hk
  refine ⟨fun hv he => ⟨?_, ?_, ?_, ?_⟩, fun hd => ?_⟩
  · rintro cls q rfl
    rw [hx, deliverCensus_hello hv he, enterNegotiating, setWidth_nibble]
    rfl
  · rintro slot cls q rfl hs
    rw [hx, deliverCensus_mismatch hv he hs]
    rfl
  · rintro rfl
    rw [hx, deliverCensus_garble hv he]
    rfl
  · rintro rfl
    rw [hx, deliverCensus_silence]
  · rw [hx, deliverCensus_discarded hd]

/-! ### SETTLE (O32) -/

theorem profileByte_eq (p : Profile) : profileByte p = BitVec.ofNat 8 p.val := rfl

theorem deliverSettle_of_not {k : Slot} {s : State} (h : (s.entry k).context? = none) (o : ExchangeOutcome) :
    deliverSettle k o s = s := by
  simp [deliverSettle, h]

section
variable {k : Slot} {s : State} {ctx : Context} (hs : (s.entry k).state = .negotiating ctx)
include hs

theorem deliverSettle_ack {p : Profile} (hp : ctx.phase = .settle p) (b : Byte) (q : Bool) :
    deliverSettle k (.reply (.settleAck b) q) s =
      if b = profileByte p then enterActive k p s else enterFailed k .profileDisagree s := by
  simp [deliverSettle, context_iff.2 hs, hp]

theorem deliverSettle_failed {o : ExchangeOutcome} (ho : o = .silence ∨ o = .garble) :
    deliverSettle k o s = enterFailed k .silent s := by
  rcases ho with rfl | rfl <;> simp [deliverSettle, context_iff.2 hs]

end

theorem postPagesDropped_of_record {k : Slot} {s : State} {r : NegotiationRecord} (h : (s.entry k).record = some r) :
    postPagesDropped k s = if r.dropped = 0 then s else post .pagesDropped (slotByte k) r.dropped s := by
  simp [postPagesDropped, h]

/-- Entry into ACTIVE as one write of the entry, beside the notices (R14). -/
theorem enterActive_eq {k : Slot} {s : State} {r : NegotiationRecord} (h : (s.entry k).record = some r) (p : Profile) :
    enterActive k p s =
      post .negotiated (slotByte k) (profileByte p)
        { (if r.dropped = 0 then s else post .pagesDropped (slotByte k) r.dropped s) with
          table := s.table.set k.val
            { s.entry k with
              state := .active (ActiveData.initial p s.sched.mscount (s.entry k).pollPeriod), missCount := 0 } } := by
  unfold enterActive State.updEntry State.setEntry
  rw [postPagesDropped_entry, postPagesDropped_table, postPagesDropped_of_record h]

/-- Settles O32: the branches of deliverSettle. -/
theorem settleExchangeEnd : Obligations.SettleExchangeEnd := by
  intro i c o s h hk
  have hx := exec_settle_end h hk
  refine ⟨?_, ?_, ?_, fun hn => ?_⟩
  · rintro ctx p r q hs hp hr rfl
    rw [hx, deliverSettle_ack hs hp, if_pos (profileByte_eq p).symm, enterActive_eq hr]
    rfl
  · rintro ctx p b q hs hp rfl hb
    rw [hx, deliverSettle_ack hs hp, profileByte_eq, if_neg hb]
  · intro ctx hs ho
    rw [hx, deliverSettle_failed hs ho]
  · rw [hx, deliverSettle_of_not hn]

/-! ### POLL (O38) -/

theorem setNextPoll_eq {k : Slot} {s : State} {d : ActiveData} (hs : (s.entry k).state = .active d) :
    setNextPoll k s =
      s.setEntry k { s.entry k with
        state := .active (d.setNextPoll s.sched.mscount (s.entry k).pollPeriod) } := by
  exact congrArg (s.setEntry k) (updActive_of_state _ hs)

theorem deliverPoll_of_not {k : Slot} {s : State} (h : (s.entry k).active? = none) (o : ExchangeOutcome) :
    deliverPoll k o s = s := by
  simp [deliverPoll, h]

section
variable {k : Slot} {s : State} {d : ActiveData} (hs : (s.entry k).state = .active d)
include hs

theorem deliverPoll_failed {o : ExchangeOutcome} (ho : o = .silence ∨ o = .garble) :
    deliverPoll k o s = countMiss k (setNextPoll k s) := by
  rcases ho with rfl | rfl <;> simp [deliverPoll, active_iff.2 hs]

/-- A STATUS of an ACTIVE entry (R101 to R103), as one write of the entry and the notice. -/
theorem deliverPoll_status (r : StatusRecord) (q : Bool) :
    deliverPoll k (.reply (.status r) q) s =
      { (if r.alarm = d.alarmBaseline then s else post .alarmChanged (slotByte k) r.alarm s) with
        table := s.table.set k.val
          { s.entry k with
            state := .active
              { d.setNextPoll s.sched.mscount (s.entry k).pollPeriod with alarmBaseline := r.alarm }
            missCount := 0
            status := some r
            fetchWanted := r.pending != 0 } } := by
  have hd : deliverPoll k (.reply (.status r) q) s =
      applyStatus k d.alarmBaseline r (clearMisses k (setNextPoll k s)) := by
    simp [deliverPoll, active_iff.2 hs]
  rw [hd, setNextPoll_eq hs, applyStatus, clearMisses, State.updEntry, State.updEntry, setEntry_setEntry,
    postAlarm_entry, entry_setEntry_self, entry_setEntry_self]
  unfold postAlarm
  split
  · rw [setEntry_setEntry]
    rfl
  · rw [post_setEntry, setEntry_setEntry, State.setEntry, post_table]
    rfl

end

/-- Settles O38: the branches of deliverPoll. -/
theorem pollExchangeEnd : Obligations.PollExchangeEnd := by
  intro i c o s h hk
  have hx := exec_poll_end h hk
  refine ⟨?_, ?_, fun hn => ?_⟩
  · rintro d r q hs rfl
    rw [hx, deliverPoll_status hs]
    simp only [ActiveData.setNextPoll, setWidth_byte, decide_not]
    rfl
  · intro d hs ho
    rw [hx, deliverPoll_failed hs ho, setNextPoll_eq hs, ActiveData.setNextPoll, setWidth_byte]
  · rw [hx, deliverPoll_of_not hn]

end Sys2Proof.Machine
end

section
/-! ## Transitions of an entry (O34, O41)

Entry into FAILED and LOST, a miss, and a renegotiation, field by field. -/

namespace Sys2Proof.Machine

/-! ### A renegotiation (O41) -/

theorem setEntry_ce_updEntry (k : Slot) (e : Entry) (c : CommandEngine) (f : Entry → Entry) (s : State) :
    { s.setEntry k e with ce := c }.updEntry k f = { s.setEntry k (f e) with ce := c } := by
  have he : { s.setEntry k e with ce := c }.entry k = e := entry_setEntry_self s k e
  unfold State.updEntry
  rw [he]
  simp [State.setEntry]

/-- A renegotiation of an ACTIVE entry as one write of the entry, beside the record and the notice (R13). -/
theorem renegotiate_eq {k : Slot} {s : State} {d : ActiveData} (hs : (s.entry k).state = .active d) (cause : Byte) :
    renegotiate k cause s =
      post .renegotiating (slotByte k) cause
        { s.setEntry k
            { s.entry k with
              state := .negotiating Context.initial
              basePage := none, pages := [], hold := 0, fetchWanted := false, seqBit := false
              record := some ⟨0, 0⟩
              verdictOwed := (s.entry k).verdictOwed.map fun v => { v with renegotiation := false } } with
          ce :=
            { s.ce with completions :=
              s.ce.completions ++ d.outstanding.toList.map fun o => o.held.completion .renegotiated 0 [] } } := by
  unfold renegotiate
  rw [completeOutstanding_eq, outstanding_of_active hs, Entry.setOutstanding, updActive_of_state _ hs]
  exact congrArg (post .renegotiating (slotByte k) cause) (setEntry_ce_updEntry k _ _ _ s)

theorem post_acted (kind : NoticeKind) (a b code : Byte) (r : ActionResult) (s : State) :
    (post kind a b s).acted code r = post kind a b (s.acted code r) := by
  unfold post State.acted
  split <;> rfl

/-! ### The slot actions (O39) -/

theorem runAction_eq (code : Byte) (f : State → State × ActionResult) (s : State) :
    runAction code f s = (f s).1.acted code (f s).2 := rfl

/-- A slot action names its slot in ARG0 (R187). -/
theorem slotAction_of_slot {s : State} {k : Slot} (h : s.Running) (hk : s.win.args[0] = slotByte k) (code : Byte)
    (f : Slot → State → State × ActionResult) :
    whileRunning (runAction code (onSlot f)) s = (f k s).1.acted code (f k s).2 := by
  rw [whileRunning_running h, runAction_eq, onSlot, hk, slotOfByte_slotByte]

theorem slotAction_of_badSlot {s : State} (h : s.Running) (hk : s.win.args[0] = 0 ∨ 30 < s.win.args[0].toNat)
    (code : Byte) (f : Slot → State → State × ActionResult) :
    whileRunning (runAction code (onSlot f)) s = s.acted code .badSlot := by
  rw [whileRunning_running h, runAction_eq, onSlot, slotOfByte_eq_none hk]

section
variable {s : State} {k : Slot} (h : s.Running) (hk : s.win.args[0] = slotByte k)
include h hk

theorem exec_detach : exec .detach s = .next ((detachSlot k s).1.acted 0x30 (detachSlot k s).2) :=
  congrArg Host.Outcome.next (slotAction_of_slot h hk 0x30 detachSlot)

theorem exec_release : exec .release s = .next ((releaseSlot k s).1.acted 0x31 (releaseSlot k s).2) :=
  congrArg Host.Outcome.next (slotAction_of_slot h hk 0x31 releaseSlot)

theorem exec_renegotiate :
    exec .renegotiate s = .next ((renegotiateSlot k s).1.acted 0x32 (renegotiateSlot k s).2) :=
  congrArg Host.Outcome.next (slotAction_of_slot h hk 0x32 renegotiateSlot)

end

/-- Settles O39: Table 1-5, a row for each state of the entry. -/
theorem slotActionResults : Obligations.SlotActionResults := by
  intro s h
  refine ⟨fun hb => ⟨?_, ?_, ?_⟩, fun k hk => ⟨_, _, _, exec_detach h hk, exec_release h hk, exec_renegotiate h hk, ?_⟩⟩
  · exact congrArg Host.Outcome.next (slotAction_of_badSlot h hb 0x30 detachSlot)
  · exact congrArg Host.Outcome.next (slotAction_of_badSlot h hb 0x31 releaseSlot)
  · exact congrArg Host.Outcome.next (slotAction_of_badSlot h hb 0x32 renegotiateSlot)
  · cases hs : (s.entry k).state <;> simp [detachSlot, releaseSlot, renegotiateSlot, hs, State.acted]

/-- Settles O41: the transition as one write, for either cause, and RENEGOTIATE as the action with cause 2. -/
theorem Settled.renegotiate : Obligations.Renegotiate := by
  intro s k d hs
  refine ⟨fun cause => renegotiate_eq hs cause, fun h hk => ?_⟩
  rw [exec_renegotiate h hk, renegotiateSlot, hs]
  exact congrArg (fun t => Host.Outcome.next (State.acted t 0x32 .done)) (renegotiate_eq hs 2)

/-! ### DETACH and RELEASE (O40) -/

/-- What making the entry of slot k VACANT leaves of the rest: the other entries, the scheduler but for the owed order,
the deferred queue without the slot's entry, and every block that has no part in it. -/
structure Vacated (k : Slot) (s t : State) : Prop where
  others : ∀ j, j ≠ k → t.entry j = s.entry j
  sched : t.sched = { s.sched with owed := s.sched.owed.filter fun j => j != k }
  mu : t.mu = (orphan k s).mu
  nq : t.nq = (orphan k s).nq
  pins : t.pins = s.pins
  px : t.px = s.px
  link : t.link = s.link
  pending : t.pending = s.pending

theorem enterVacant_vacated (k : Slot) (st : CompletionStatus) (s : State) : Vacated k s (enterVacant k st s) where
  others j hj := by rw [enterVacant_entry, if_neg hj]
  sched := enterVacant_sched k st s
  mu := enterVacant_mu k st s
  nq := enterVacant_nq k st s
  pins := by simp
  px := by simp
  link := by simp
  pending := by simp

/-- What follows on the slot's own entry and on ACT and ARES changes nothing of the rest. -/
theorem Vacated.acted {k : Slot} {s t : State} (h : Vacated k s t) (code : Byte) (r : ActionResult) :
    Vacated k s (t.acted code r) :=
  ⟨h.others, h.sched, h.mu, h.nq, h.pins, h.px, h.link, h.pending⟩

theorem Vacated.updEntry {k : Slot} {s t : State} (h : Vacated k s t) (f : Entry → Entry) :
    Vacated k s (t.updEntry k f) :=
  ⟨fun j hj => (entry_updEntry_ne hj f t).trans (h.others j hj), h.sched, h.mu, h.nq, h.pins, h.px, h.link, h.pending⟩

theorem Vacated.frame {k : Slot} {s t : State} (h : Vacated k s t) :
    (∀ j, j ≠ k → t.entry j = s.entry j) ∧
      t.sched = { s.sched with owed := s.sched.owed.filter fun j => j != k } ∧
      (s.deferredOf k = none → t.mu = s.mu ∧ t.nq = s.nq) ∧
      (∀ x, s.deferredOf k = some x →
        t.mu.queue = s.mu.queue.filter (fun y => y.handle != x.handle) ∧
          t.mu.handles = s.mu.handles.set x.handle.val ⟨s.mu.handles[x.handle.val].generation, .gone⟩ ∧
          t.nq = (post .deferredGone (slotByte k) (handleByte x.handle) s).nq) ∧
      t.pins = s.pins ∧ t.px = s.px ∧ t.link = s.link ∧ t.pending = s.pending := by
  refine ⟨h.others, h.sched, fun hd => ?_, fun x hd => ?_, h.pins, h.px, h.link, h.pending⟩
  · rw [h.mu, h.nq, orphan_of_none hd]
    exact ⟨rfl, rfl⟩
  · rw [h.mu, h.nq]
    exact ⟨orphan_queue_of_some hd, orphan_handles_of_some hd, orphan_nq_of_some hd⟩

theorem endCommands_of_active {k : Slot} {s : State} {d : ActiveData} (hs : (s.entry k).state = .active d)
    (st : CompletionStatus) :
    endCommands k st s =
      settle (fun q => q.held.cmd.target == k) st
        { s with
          table := s.table.set k.val ((s.entry k).setOutstanding none)
          ce :=
            { s.ce with completions :=
              s.ce.completions ++ d.outstanding.toList.map fun o => o.held.completion st 0 [] } } := by
  unfold endCommands
  rw [if_pos (isActive_of_state hs), completeOutstanding_eq, outstanding_of_active hs]
  rfl

theorem endCommands_of_not {k : Slot} {s : State} (h : (s.entry k).active? = none) (st : CompletionStatus) :
    endCommands k st s = s := by
  simp [endCommands, Entry.isActive, h]

theorem detachSlot_of_owed {k : Slot} {s : State} (hv : (s.entry k).state ≠ .vacant) (hl : (s.entry k).state ≠ .lost) :
    detachSlot k s = (oweRelease k (clearCensus k (enterVacant k .detached s)), .done) := by
  unfold detachSlot
  split <;> simp_all

theorem detachSlot_of_lost {k : Slot} {s : State} (hl : (s.entry k).state = .lost) :
    detachSlot k s = (clearCensus k (enterVacant k .detached s), .done) := by
  simp [detachSlot, hl]

section
variable (k : Slot) (s : State)

theorem detached_entry : (oweRelease k (clearCensus k (enterVacant k .detached s))).entry k =
    { Entry.reset with censusEnable := false, pollPeriod := (s.entry k).pollPeriod, releaseOwed := true } := by
  rw [oweRelease, entry_updEntry_same, clearCensus, entry_updEntry_same, enterVacant_entry, if_pos rfl, Entry.emptied]

theorem detachedLost_entry : (clearCensus k (enterVacant k .detached s)).entry k =
    { Entry.reset with
      censusEnable := false, pollPeriod := (s.entry k).pollPeriod, releaseOwed := (s.entry k).releaseOwed } := by
  rw [clearCensus, entry_updEntry_same, enterVacant_entry, if_pos rfl, Entry.emptied]

theorem released_entry : (oweRelease k (enterVacant k .detached s)).entry k =
    { Entry.reset with
      censusEnable := (s.entry k).censusEnable, pollPeriod := (s.entry k).pollPeriod, releaseOwed := true } := by
  rw [oweRelease, entry_updEntry_same, enterVacant_entry, if_pos rfl, Entry.emptied]

end

theorem active_none_of_state {e : Entry} (h : ∀ d, e.state ≠ .active d) : e.active? = none := by
  cases ha : e.active? with
  | none => rfl
  | some d => exact absurd (active_iff.1 ha) (h d)

/-- Settles O40: DETACH and RELEASE are entry into VACANT and writes of the entry's own two flags. -/
theorem detachAndRelease : Obligations.DetachAndRelease := by
  intro s k h hk
  have hvac := enterVacant_vacated k .detached s
  have hwin : ∀ (t : State) (code : Byte), t.win = s.win → (t.acted code .done).win = (s.acted code .done).win :=
    fun t code ht => by unfold State.acted; rw [ht]
  have hce : (s.entry k).active? = none → (enterVacant k .detached s).ce = s.ce := fun hn => by
    rw [enterVacant_ce, endCommands_of_not hn]
  refine ⟨fun d hs => ?_, fun hs => ?_, fun hs => ?_, fun f hs => ?_, fun hs => ?_⟩
  · have hd := detachSlot_of_owed (k := k) (s := s) (by rw [hs]; intro hx; cases hx) (by rw [hs]; intro hx; cases hx)
    refine ⟨_, exec_detach h hk, ?_, ?_, Vacated.frame ?_, ?_⟩ <;> rw [hd]
    · exact hwin _ _ (by simp)
    · exact detached_entry k s
    · exact ((hvac.updEntry _).updEntry _).acted _ _
    · exact (enterVacant_ce k .detached s).trans (congrArg State.ce (endCommands_of_active hs .detached))
  · have hn : ∀ d, (s.entry k).state ≠ .active d := by
      rcases hs with ⟨_, hs⟩ | ⟨_, hs⟩ <;> rw [hs] <;> intro d hx <;> cases hx
    have hd : detachSlot k s = _ := detachSlot_of_owed
      (by rcases hs with ⟨_, hs⟩ | ⟨_, hs⟩ <;> rw [hs] <;> intro hx <;> cases hx)
      (by rcases hs with ⟨_, hs⟩ | ⟨_, hs⟩ <;> rw [hs] <;> intro hx <;> cases hx)
    refine ⟨_, exec_detach h hk, ?_, ?_, Vacated.frame ?_, ?_⟩ <;> rw [hd]
    · exact hwin _ _ (by simp)
    · exact detached_entry k s
    · exact ((hvac.updEntry _).updEntry _).acted _ _
    · exact hce (active_none_of_state hn)
  · refine ⟨_, exec_detach h hk, ?_, ?_, Vacated.frame ?_, ?_⟩ <;> rw [detachSlot_of_lost hs]
    · exact hwin _ _ (by simp)
    · exact detachedLost_entry k s
    · exact (hvac.updEntry _).acted _ _
    · exact hce (by simp [Entry.active?, hs])
  · have hd : releaseSlot k s = (oweRelease k (enterVacant k .detached s), .done) := by simp [releaseSlot, hs]
    refine ⟨_, exec_release h hk, ?_, ?_, Vacated.frame ?_, ?_⟩ <;> rw [hd]
    · exact hwin _ _ (by simp)
    · exact released_entry k s
    · exact (hvac.updEntry _).acted _ _
    · exact hce (by simp [Entry.active?, hs])
  · have hd : releaseSlot k s = (enterVacant k .detached s, .done) := by simp [releaseSlot, hs]
    refine ⟨_, exec_release h hk, ?_, ?_, Vacated.frame ?_, ?_⟩ <;> rw [hd]
    · exact hwin _ _ (by simp)
    · exact (enterVacant_entry k .detached s k).trans (if_pos rfl)
    · exact hvac.acted _ _
    · exact hce (by simp [Entry.active?, hs])

/-! ### Entry into FAILED (O34) -/

theorem enterFailed_entry (k : Slot) (f : FaultCode) (s : State) (j : Slot) :
    (enterFailed k f s).entry j =
      if j = k then { s.entry k with state := .failed f, fetchWanted := false, verdictOwed := none } else s.entry j := by
  unfold enterFailed
  rw [post_entry, orphan_entry, clearOwed_entry, entry_updEntry_same, entry_updEntry, postPagesDropped_entry,
    postPagesDropped_entry]
  split <;> rfl

theorem enterFailed_sched (k : Slot) (f : FaultCode) (s : State) :
    (enterFailed k f s).sched = { s.sched with owed := s.sched.owed.filter fun j => j != k } := by
  simp [enterFailed]

theorem enterFailed_mu (k : Slot) (f : FaultCode) (s : State) : (enterFailed k f s).mu = (orphan k s).mu := by
  unfold enterFailed
  rw [post_mu]
  exact orphan_mu_congr (by simp)

/-- The notices of an entry into FAILED, in order: PAGES_DROPPED, DEFERRED_GONE, NEGOTIATION_FAILED (R53, R58, R152). -/
theorem enterFailed_nq (k : Slot) (f : FaultCode) (s : State) :
    (enterFailed k f s).nq = (post .negotiationFailed (slotByte k) f.code (orphan k (postPagesDropped k s))).nq :=
  post_nq_congr _ _ _ (orphan_nq_congr rfl rfl rfl) (by simp)

/-! ### A miss and entry into LOST (O34) -/

theorem countMiss_of_lt {k : Slot} {s : State} (h : (s.entry k).missCount + 1 < s.sched.missLimit.toNat) :
    countMiss k s = s.setEntry k { s.entry k with missCount := (s.entry k).missCount + 1 } := by
  unfold countMiss
  rw [if_neg (by omega)]
  rfl

theorem countMiss_of_le {k : Slot} {s : State} (h : s.sched.missLimit.toNat ≤ (s.entry k).missCount + 1) :
    countMiss k s = enterLost k (s.setEntry k { s.entry k with missCount := (s.entry k).missCount + 1 }) := by
  unfold countMiss
  rw [if_pos h]
  rfl

theorem enterLost_entry (k : Slot) {s : State} {d : ActiveData} (hs : (s.entry k).state = .active d) (j : Slot) :
    (enterLost k s).entry j =
      if j = k then { s.entry k with state := .lost, hold := 0, fetchWanted := false, verdictOwed := none }
      else s.entry j := by
  unfold enterLost
  rw [orphan_entry, post_entry, clearOwed_entry, entry_updEntry_same, entry_updEntry, settleSlot_entry,
    settleSlot_entry, completeOutstanding_entry, completeOutstanding_entry, if_pos rfl, Entry.setOutstanding,
    updActive_of_state _ hs]
  split <;> rfl

theorem enterLost_sched (k : Slot) (s : State) :
    (enterLost k s).sched = { s.sched with owed := s.sched.owed.filter fun j => j != k } := by
  simp [enterLost]

theorem enterLost_mu (k : Slot) (s : State) : (enterLost k s).mu = (orphan k s).mu :=
  orphan_mu_congr (by simp)

theorem enterLost_nq (k : Slot) (s : State) :
    (enterLost k s).nq = (orphan k (post .moduleLost (slotByte k) 0 s)).nq := by
  refine orphan_nq_congr (by simp) ?_ (by simp)
  exact post_nq_congr _ _ _ (by simp) (by simp)

theorem enterLost_ce (k : Slot) (s : State) :
    (enterLost k s).ce = (settleSlot k .moduleLost (completeOutstanding k .moduleLost [] s)).ce := by
  simp [enterLost]

/-- Two entries with no outstanding command count alike. -/
theorem outstandingCount_setEntry_none {k : Slot} {e f : Entry} {s : State} (he : e.outstanding? = none)
    (hf : f.outstanding? = none) : (s.setEntry k e).outstandingCount = (s.setEntry k f).outstandingCount := by
  have h1 := outstandingCount_setEntry k e s
  have h2 := outstandingCount_setEntry k f s
  unfold Entry.share at h1 h2
  rw [he] at h1
  rw [hf] at h2
  simp only [Option.isSome_none] at h1 h2
  omega

/-- The commands of an entry that is LOST end as they would without the miss that was counted first. -/
theorem enterLost_ce_setEntry {k : Slot} {s : State} {d : ActiveData} (hs : (s.entry k).state = .active d) (n : Nat) :
    (enterLost k (s.setEntry k { s.entry k with missCount := n })).ce =
      (settle (fun q => q.held.cmd.target == k) .moduleLost
        { s with
          table := s.table.set k.val ((s.entry k).setOutstanding none)
          ce :=
            { s.ce with completions :=
              s.ce.completions ++ d.outstanding.toList.map fun o => o.held.completion .moduleLost 0 [] } }).ce := by
  have ho : ({ s.entry k with missCount := n } : Entry).outstanding? = d.outstanding := outstanding_of_active hs
  rw [enterLost_ce]
  refine settle_ce_congr _ _ ?_ ?_
  · rw [completeOutstanding_ce, entry_setEntry_self, ho]
    rfl
  · refine (outstandingCount_congr (s := s.setEntry k
      (({ s.entry k with missCount := n } : Entry).setOutstanding none)) ?_).trans
      (outstandingCount_setEntry_none (setOutstanding_none_outstanding _) (setOutstanding_none_outstanding _))
    rw [completeOutstanding_eq, entry_setEntry_self]
    simp

/-- Settles O34: each field of the two transitions from its own lemma. -/
theorem failedAndLostEntries : Obligations.FailedAndLostEntries := by
  refine ⟨fun k f s ctx r _ hr => ?_, fun k s d hs => ⟨fun hm => countMiss_of_lt hm, fun hm => ?_⟩⟩
  · have hp := postPagesDropped_of_record hr
    have hpd : (postPagesDropped k s).deferredOf k = s.deferredOf k := deferredOf_congr (by simp) k
    refine ⟨(enterFailed_entry k f s k).trans (if_pos rfl), fun j hj => (enterFailed_entry k f s j).trans (if_neg hj),
      enterFailed_sched k f s, fun hd => ⟨?_, ?_⟩, fun x hd => ⟨?_, ?_, ?_⟩, by simp, by simp, by simp, by simp, by simp,
      by simp⟩
    · rw [enterFailed_mu, orphan_of_none hd]
    · rw [enterFailed_nq, orphan_of_none (hpd.trans hd), hp]
      cases f <;> rfl
    · rw [enterFailed_mu, orphan_queue_of_some hd]
    · rw [enterFailed_mu, orphan_handles_of_some hd]
    · rw [enterFailed_nq, hp]
      have hn := post_nq_congr .negotiationFailed (slotByte k) f.code (orphan_nq_of_some (hpd.trans hd)) (by simp)
      rw [hp] at hn
      cases f <;> exact hn
  · have hm' := countMiss_of_le hm
    have hs' : ((s.setEntry k { s.entry k with missCount := (s.entry k).missCount + 1 }).entry k).state = .active d := by
      rw [entry_setEntry_self]
      exact hs
    refine ⟨?_, fun j hj => ?_, ?_, ?_, fun hd => ⟨?_, ?_⟩, fun x hd => ⟨?_, ?_, ?_⟩, by simp, by simp, by simp, by simp,
      by simp⟩
    · rw [hm', enterLost_entry k hs', if_pos rfl, entry_setEntry_self]
    · rw [hm', enterLost_entry k hs', if_neg hj, entry_setEntry_ne hj]
    · rw [hm', enterLost_sched]
      rfl
    · rw [hm']
      exact enterLost_ce_setEntry hs _
    · rw [hm', enterLost_mu]
      exact (congrArg State.mu (orphan_of_none (s := s.setEntry k _) hd)).trans (setEntry_mu _ _ _)
    · rw [hm', enterLost_nq, orphan_of_none ((deferredOf_congr (by simp) k).trans hd)]
      exact post_nq_congr _ _ _ rfl rfl
    · rw [hm', enterLost_mu]
      exact orphan_queue_of_some hd
    · rw [hm', enterLost_mu, orphan_handles_of_some (s := s.setEntry k _) hd]
      simp
    · rw [hm', enterLost_nq, orphan_nq_of_some ((deferredOf_congr (t := s) (by simp) k).trans hd)]
      exact post_nq_congr _ _ _ (post_nq_congr _ _ _ rfl rfl) (by simp)

end Sys2Proof.Machine
end

section
/-! ## Attempts and exchanges (O49) -/

namespace Sys2Proof.Machine

/-- A pending restart acts when the exchange is done (R84, R85). -/
theorem beginRestart_eq (s : State) :
    beginRestart s =
      { restartTable { s with link := { s.link with restartPending := false } } with
        link :=
          { s.link with
            state := .broadcasting, activity := .transmitting, heldBroadcast := false, window := none
            restartPending := false } } := by
  unfold beginRestart enterBroadcasting State.setLink
  rw [restartTable_link]

theorem beginGap_eq (s : State) :
    beginGap s =
      { s with link :=
        { s.link with
          state := if s.link.stopPending = true then .stopping else .sending
          activity := .gap, attempt := s.link.attempt + 1, window := none } } := rfl

theorem deliverRelease_vacant {k : Slot} {s : State} (hv : (s.entry k).state = .vacant) :
    deliverRelease k s = s.setEntry k { s.entry k with releaseOwed := false } := by
  unfold deliverRelease
  rw [if_pos (isVacant_iff.2 hv)]
  rfl

/-- Settles O49: the retry, the three ways on from an exchange, its delivery, and RELEASE. -/
theorem attemptAndExchangeEnd : Obligations.AttemptAndExchangeEnd := by
  refine ⟨fun i c o s h hr => ?_, fun s => ⟨fun hp hs => ?_, fun hp hs => ?_, fun hp => ?_⟩, fun i c o s h => ?_,
    fun i c o s h hk hv => ?_⟩
  · rw [exec_of_attemptEnds h, endAttempt, h.2.1]
    dsimp only
    rw [if_pos (retries_eq_true hr), beginGap_eq]
  · simp [finishExchange, afterWork, State.setLink, enterIdle, hp, hs]
  · simp [finishExchange, afterWork, State.setLink, enterOff, hp, hs]
  · simp [finishExchange, afterWork, State.setLink, beginRestart_eq, hp]
  · exact ⟨deliver_link c o s, exec_of_exchangeEnds h⟩
  · rw [exec_release_end h hk, deliverRelease_vacant hv]

/-! ## FETCH (O27) -/

theorem deliverFetch_of_not {k : Slot} {s : State} (h : (s.entry k).active? = none) (o : ExchangeOutcome) :
    deliverFetch k o s = s := by
  simp [deliverFetch, Entry.isActive, h]

section
variable {k : Slot} {s : State} {d : ActiveData} (hs : (s.entry k).state = .active d)
include hs

theorem deliverFetch_failed {o : ExchangeOutcome} (ho : o = .silence ∨ o = .garble) :
    deliverFetch k o s = countMiss k s := by
  rcases ho with rfl | rfl <;> simp [deliverFetch, isActive_of_state hs]

theorem deliverFetch_empty (q : Bool) :
    deliverFetch k (.reply .empty q) s = s.setEntry k { s.entry k with missCount := 0, fetchWanted := false } := by
  have h : deliverFetch k (.reply .empty q) s =
      (clearMisses k s).updEntry k fun e => { e with fetchWanted := false } := by
    simp [deliverFetch, isActive_of_state hs]
  rw [h, clearMisses, State.updEntry, State.updEntry, setEntry_setEntry, entry_setEntry_self]

theorem deliverFetch_message (cls : Byte) (number : BitVec 4) (data : List Byte) (q : Bool) :
    deliverFetch k (.reply (.message cls number data) q) s = judgeMessage k cls number data q (clearMisses k s) := by
  simp [deliverFetch, isActive_of_state hs]

end

/-- A repeat is answered with the last verdict, whatever its class (R138). -/
theorem judgeMessage_repeat {k : Slot} {s : State} {number : BitVec 4} {v : Verdict}
    (hn : (s.entry k).lastNumber = some number) (hv : (s.entry k).lastVerdict = some v) (cls : Byte) (data : List Byte)
    (q : Bool) : judgeMessage k cls number data q s = oweVerdict k v false s := by
  simp [judgeMessage, hn, hv]

/-- A new message of a software class is deferred (R140). -/
theorem judgeMessage_deferred {k : Slot} {s : State} {number : BitVec 4} {cls : Byte}
    (hn : (s.entry k).lastNumber ≠ some number) (hc : 16 ≤ cls.toNat) (data : List Byte) (q : Bool) :
    judgeMessage k cls number data q s =
      deferMessage k cls number data ((postGap k number s).updEntry k fun e => { e with lastNumber := some number }) := by
  simp [judgeMessage, judgeClass, hn, hc]

/-- The lowest handle that holds no entry is the free handle (R148). -/
theorem freeHandle_of_lowest {s : State} {h : Handle} (hf : ∀ x ∈ s.mu.queue, x.handle ≠ h)
    (hl : ∀ g, g < h → ∃ x ∈ s.mu.queue, x.handle = g) : s.freeHandle = some h := by
  have hfree : ∀ g : Handle, (s.deferredAt g).isNone = true ↔ ∀ x ∈ s.mu.queue, x.handle ≠ g := fun g => by
    unfold State.deferredAt
    rw [Option.isNone_iff_eq_none, List.find?_eq_none]
    simp
  unfold State.freeHandle
  rw [List.find?_eq_some_iff_getElem]
  refine ⟨(hfree h).2 hf, h.val, by simp, by simp, fun j hj => ?_⟩
  obtain ⟨x, hx, hxj⟩ := hl ⟨j, by omega⟩ hj
  rw [Bool.not_eq_true', ← Bool.not_eq_true]
  intro hn
  exact (hfree _).1 hn x hx (by simpa using hxj)

theorem deferMessage_of_free {k : Slot} {s : State} {h : Handle} (hf : s.freeHandle = some h) (cls : Byte)
    (number : BitVec 4) (data : List Byte) :
    deferMessage k cls number data s =
      { s with mu :=
        { s.mu with
          queue := s.mu.queue ++ [⟨h, k, cls, number, data, none, 0, false⟩]
          handles := s.mu.handles.set h.val ⟨s.mu.handles[h.val].generation + 1, .none⟩ } } := by
  simp [deferMessage, hf]

/-- The state in which a new message is judged: its gap is posted, its misses are cleared and its number is the last. -/
theorem freeHandle_congr {s t : State} (h : s.mu = t.mu) : s.freeHandle = t.freeHandle := by
  unfold State.freeHandle State.deferredAt
  rw [h]

/-- Settles O27: the branches of deliverFetch and, for a message, of judgeMessage. -/
theorem softwareMessagesAndRepeats : Obligations.SoftwareMessagesAndRepeats := by
  refine ⟨fun i c s r q d h hk hs => ⟨?_, ?_, ?_⟩, fun i c o s h hk => ⟨fun d hs ho => ?_, fun hn => ?_⟩⟩
  · rintro cls number data g rfl hc hn hf hl
    have hn' : ((clearMisses c.slot s).entry c.slot).lastNumber ≠ some number := by
      rw [clearMisses, entry_updEntry_same]
      exact hn
    rw [exec_fetch_end h hk, deliverFetch_message hs, judgeMessage_deferred hn' hc,
      deferMessage_of_free ((freeHandle_congr (t := s) (by simp)).trans (freeHandle_of_lowest hf hl)),
      postGap_clearMisses]
    cases hl : (s.entry c.slot).lastNumber with
    | none => rfl
    | some n =>
      dsimp only
      split
      · rfl
      · simp [State.setEntry]
  · rintro cls number data v rfl hn hv
    have he : (clearMisses c.slot s).entry c.slot = { s.entry c.slot with missCount := 0 } := entry_updEntry_same _ _ s
    rw [exec_fetch_end h hk, deliverFetch_message hs, judgeMessage_repeat (by rw [he]; exact hn) (by rw [he]; exact hv)]
    rfl
  · rintro rfl
    rw [exec_fetch_end h hk, deliverFetch_empty hs]
  · rw [exec_fetch_end h hk, deliverFetch_failed hs ho]
  · rw [exec_fetch_end h hk, deliverFetch_of_not hn]

/-! ## VERDICT (O28) -/

theorem deliverVerdict_of_not {k : Slot} {s : State}
    (h : (s.entry k).state = .vacant ∨ (s.entry k).state = .lost ∨ ∃ f, (s.entry k).state = .failed f)
    (o : ExchangeOutcome) : deliverVerdict k o s = s := by
  rcases h with h | h | ⟨f, h⟩ <;> simp [deliverVerdict, h]

section
variable {k : Slot} {s : State} {ctx : Context} (hs : (s.entry k).state = .negotiating ctx)
include hs

theorem deliverVerdict_negotiating (r : Reply) (q : Bool) : deliverVerdict k (.reply r q) s = verdictCarried k s := by
  simp [deliverVerdict, hs]

theorem deliverVerdict_negotiating_failed {o : ExchangeOutcome} (ho : o = .silence ∨ o = .garble) :
    deliverVerdict k o s = s := by
  rcases ho with rfl | rfl <;> simp [deliverVerdict, hs]

end

section
variable {k : Slot} {s : State} {d : ActiveData} (hs : (s.entry k).state = .active d)
include hs

theorem deliverVerdict_failed {o : ExchangeOutcome} (ho : o = .silence ∨ o = .garble) :
    deliverVerdict k o s = countMiss k s := by
  rcases ho with rfl | rfl <;> simp [deliverVerdict, hs]

theorem deliverVerdict_active {v : OwedVerdict} (hv : (s.entry k).verdictOwed = some v) (r : Reply) (q : Bool) :
    deliverVerdict k (.reply r q) s =
      if v.renegotiation = true then renegotiate k 1 (verdictCarried k (clearMisses k s))
      else verdictCarried k (clearMisses k s) := by
  simp [deliverVerdict, hs, Entry.wantsRenegotiation, hv]

end

theorem freeDecided_of_none {k : Slot} {s : State} (h : s.deferredOf k = none) : freeDecided k s = s := by
  simp [freeDecided, h]

theorem freeDecided_of_decided {k : Slot} {s : State} {x : Deferred} {dec : Decision} (h : s.deferredOf k = some x)
    (hd : x.decision = some dec) : freeDecided k s = dropDeferred x.handle dec.decidedBy.endCause s := by
  simp [freeDecided, h, hd]

theorem clearOwed_setEntry (k : Slot) (e : Entry) (s : State) :
    clearOwed k (s.setEntry k e) =
      { s.setEntry k { e with verdictOwed := none } with
        sched := { s.sched with owed := s.sched.owed.filter fun j => j != k } } := by
  unfold clearOwed State.updEntry
  rw [setEntry_setEntry, entry_setEntry_self]
  rfl

section
variable {k : Slot} {s : State} (e : Entry)

/-- A verdict carried with nothing to free (R146). -/
theorem verdictCarried_of_none (h : s.deferredOf k = none) :
    verdictCarried k (s.setEntry k e) =
      { s with
        table := s.table.set k.val { e with verdictOwed := none }
        sched := { s.sched with owed := s.sched.owed.filter fun j => j != k } } := by
  unfold verdictCarried
  rw [freeDecided_of_none ((deferredOf_congr (by simp) k).trans h), clearOwed_setEntry]
  rfl

/-- A verdict carried frees the slot's DECIDED entry with its decided-by as end-cause (R151). -/
theorem verdictCarried_of_decided {x : Deferred} {dec : Decision} (h : s.deferredOf k = some x)
    (hd : x.decision = some dec) :
    verdictCarried k (s.setEntry k e) =
      { s with
        table := s.table.set k.val { e with verdictOwed := none }
        sched := { s.sched with owed := s.sched.owed.filter fun j => j != k }
        mu := (dropDeferred x.handle dec.decidedBy.endCause s).mu } := by
  unfold verdictCarried
  rw [freeDecided_of_decided ((deferredOf_congr (by simp) k).trans h) hd, clearOwed_setEntry]
  rfl

end

/-- What freeing a DECIDED entry leaves of the message unit, with its end-cause by who decided (R150, R151). -/
theorem dropDeferred_mu (x : Deferred) (dec : Decision) (s : State) :
    (dropDeferred x.handle dec.decidedBy.endCause s).mu =
      { s.mu with
        queue := s.mu.queue.filter fun y => y.handle != x.handle
        handles := s.mu.handles.set x.handle.val
          ⟨s.mu.handles[x.handle.val].generation,
            match dec.decidedBy with
            | .software => .software
            | .timeout => .timeout⟩ } := by
  cases h : dec.decidedBy <;> rfl

/-- Settles O28: the branches of deliverVerdict by the state of the entry. -/
theorem verdictExchangeEnd : Obligations.VerdictExchangeEnd := by
  intro i c o s h hk
  have hx := exec_verdict_end h hk
  have hself := setEntry_entry_self s c.slot
  refine ⟨?_, ?_, ?_, fun d hs ho => ?_, fun ctx hs ho => ?_, fun hs => ?_⟩
  · rintro d v q hs hv hr rfl
    rw [hx, deliverVerdict_active hs hv, if_neg (by simp [hr])]
    refine ⟨fun hd => ?_, fun x dec hd hdec => ?_⟩
    · exact congrArg (fun t => Host.Outcome.next (finishExchange t)) (verdictCarried_of_none _ hd)
    · have hc := verdictCarried_of_decided { s.entry c.slot with missCount := 0 } hd hdec
      rw [dropDeferred_mu] at hc
      exact congrArg (fun t => Host.Outcome.next (finishExchange t)) hc
  · rintro d v q hs hv hr rfl hd
    rw [hx, deliverVerdict_active hs hv, if_pos hr]
    exact congrArg (fun t => Host.Outcome.next (finishExchange (renegotiate c.slot 1 t))) (verdictCarried_of_none _ hd)
  · rintro ctx v q hs hv rfl
    rw [hx, deliverVerdict_negotiating hs]
    refine ⟨fun hd => ?_, fun x dec hd hdec => ?_⟩
    · have hc := verdictCarried_of_none (s.entry c.slot) hd
      rw [hself] at hc
      exact congrArg (fun t => Host.Outcome.next (finishExchange t)) hc
    · have hc := verdictCarried_of_decided (s.entry c.slot) hd hdec
      rw [hself, dropDeferred_mu] at hc
      exact congrArg (fun t => Host.Outcome.next (finishExchange t)) hc
  · rw [hx, deliverVerdict_failed hs ho]
  · rw [hx, deliverVerdict_negotiating_failed hs ho]
  · rw [hx, deliverVerdict_of_not hs]

end Sys2Proof.Machine
end

section
/-! ## The resets (O4) -/

namespace Sys2Proof.Machine

/-- Settles O4: each reset is its definition. -/
theorem pinResetAndSoftReset : Obligations.PinResetAndSoftReset :=
  ⟨fun _ => rfl, fun _ => rfl, fun _ _ h => congrArg Host.Outcome.next (whileRunning_running h)⟩

/-! ## The tick and its marks (O52, O53) -/

theorem exec_msTick {s : State} (h : s.Running) (lfltn rxd : Level) :
    exec (.msTick lfltn rxd) s = .next (msTick lfltn rxd s) :=
  congrArg Host.Outcome.next (whileRunning_running h)

/-- The hold after a tick (R8). -/
def heldOn (hold : Byte) : Byte := if hold = 0 then 0 else hold - 1

theorem tick_of_not {e : Entry} (h : e.active? = none) (now : BitVec 16) :
    e.tick now = { e with hold := heldOn e.hold } :=
  updActive_of_not (e := { e with hold := heldOn e.hold }) _ h

theorem tick_of_active {e : Entry} {d : ActiveData} (h : e.state = .active d) (now : BitVec 16) :
    e.tick now =
      { e with
        hold := heldOn e.hold
        state := .active { d.tickPoll now with outstanding := d.outstanding.map Outstanding.tick } } :=
  updActive_of_state (e := { e with hold := heldOn e.hold }) _ h

theorem tick_hold (e : Entry) (now : BitVec 16) : (e.tick now).hold = heldOn e.hold := by
  cases h : e.active? with
  | none => rw [tick_of_not h]
  | some d => rw [tick_of_active (active_iff.1 h)]

theorem queuedTick_eq (q : QueuedCommand) :
    q.tick =
      if q.settled = none then { q with held := { q.held with remaining := q.held.remaining.map (· - 1) } } else q := by
  unfold QueuedCommand.tick
  simp only [Option.isNone_iff_eq_none]
  rfl

theorem linkTick_of_not {l : LinkEngine} (h : l.state ≠ .fault) (lfltn rxd : Level) : l.tick lfltn rxd = l := by
  unfold LinkEngine.tick
  split
  next hf => exact absurd hf h
  all_goals rfl

theorem linkTick_of_fault {l : LinkEngine} (h : l.state = .fault) (lfltn rxd : Level) :
    l.tick lfltn rxd =
      { l with quiet := if lfltn = .high ∧ rxd = .high then min (l.quiet + 1) 10 else 0 } := by
  unfold LinkEngine.tick
  rw [h]
  rfl

/-- Settles O52: each block's own tick. -/
theorem Settled.msTick : Obligations.MsTick := by
  intro lfltn rxd s h
  refine ⟨_, exec_msTick h lfltn rxd, rfl, fun i => ?_, ?_, rfl, fun hf => linkTick_of_not hf _ _,
    fun hf => linkTick_of_fault hf _ _, rfl, rfl, rfl, rfl, rfl⟩
  · rw [msTick_entry, tick_hold]
    refine ⟨rfl, fun hn => tick_of_not hn _, fun d hd => ⟨_, _, tick_of_active (active_iff.1 hd) _⟩⟩
  · show CommandEngine.tick s.ce = _
    unfold CommandEngine.tick
    rw [funext queuedTick_eq]
    rfl

theorem exec_pollDue {s : State} (h : s.Running) {k : Slot} {d : ActiveData} (hs : (s.entry k).state = .active d) :
    exec (.pollDue k) s = .next (s.setEntry k { s.entry k with state := .active d.takeDue }) := by
  refine congrArg Host.Outcome.next ((whileRunning_running h).trans ?_)
  exact congrArg (s.setEntry k) (updActive_of_state _ hs)

theorem exec_pollOverdue {s : State} (h : s.Running) {k : Slot} {d : ActiveData}
    (hs : (s.entry k).state = .active d) :
    exec (.pollOverdue k) s = .next (s.setEntry k { s.entry k with state := .active d.takeOverdue }) := by
  refine congrArg Host.Outcome.next ((whileRunning_running h).trans ?_)
  exact congrArg (s.setEntry k) (updActive_of_state _ hs)

theorem setEntry_state_self {s : State} {k : Slot} {m : ModuleState} (hs : (s.entry k).state = m) :
    s.setEntry k { s.entry k with state := m } = s := by
  rw [← hs]
  exact setEntry_entry_self s k

/-! ### The slots in the order of a pointer (R23, R94, R97) -/

theorem mem_slotsFrom (p i : Slot) : i ∈ slotsFrom p :=
  List.mem_map.2 ⟨i - p, mem_allSlots _, add_sub_cancel p i⟩

theorem find_allSlots_eq_none {f : Slot → Bool} : allSlots.find? f = none ↔ ∀ i, f i = false := by
  rw [List.find?_eq_none]
  simp [mem_allSlots]

theorem find_slotsFrom_eq_none {p : Slot} {f : Slot → Bool} : (slotsFrom p).find? f = none ↔ ∀ i, f i = false := by
  rw [List.find?_eq_none]
  simp [mem_slotsFrom]

theorem find_allSlots_eq_some {f : Slot → Bool} {k : Slot} (hk : f k = true) (hj : ∀ j, j < k → f j = false) :
    allSlots.find? f = some k := by
  rw [allSlots, List.find?_eq_some_iff_getElem]
  refine ⟨hk, k.val, by simp, by simp, fun j hjk => ?_⟩
  rw [List.getElem_finRange, hj _ hjk]
  rfl

theorem find_slotsFrom_eq_some {p : Slot} {f : Slot → Bool} {n : Slot} (hn : f (p + n) = true)
    (hm : ∀ m, m < n → f (p + m) = false) : (slotsFrom p).find? f = some (p + n) := by
  rw [slotsFrom, List.find?_map, find_allSlots_eq_some (f := f ∘ fun k => p + k) hn hm]
  rfl

/-- A slot is eligible for census (R23). -/
theorem censusEligible_iff (s : State) (i : Slot) :
    s.censusEligible i = true ↔
      (s.entry i).state = .vacant ∧ (s.entry i).censusEnable = true ∧ (s.entry i).releaseOwed = false := by
  simp [State.censusEligible, isVacant_iff, and_assoc]

theorem censusWork_eq_none (s : State) :
    s.censusWork = none ↔
      s.sched.censusElapsed < s.sched.censusInterval.toNat ∨ ∀ i, s.censusEligible i = false := by
  rw [State.censusWork, ← find_slotsFrom_eq_none (p := s.sched.sweep)]
  split
  next h => simp [h]
  next h => simp [h]

/-- A command that can start goes to a target that is ready for it (R112). -/
theorem ready_of_isCandidate {s : State} {q : QueuedCommand} (h : s.isCandidate q = true) :
    q.settled = none ∧ (s.entry q.held.cmd.target).isActive = true ∧ (s.entry q.held.cmd.target).hold = 0 ∧
      (s.entry q.held.cmd.target).outstanding? = none ∧ (s.entry q.held.cmd.target).verdictOwed = none ∧
      s.reservation < 16 := by
  simp only [State.isCandidate, Entry.readyForCommand, Bool.and_eq_true, Option.isNone_iff_eq_none, beq_iff_eq,
    decide_eq_true_eq] at h
  obtain ⟨⟨⟨hq, ⟨⟨ha, hh⟩, ho⟩, hv⟩, -⟩, hr⟩ := h
  exact ⟨hq, ha, hh, ho, hv, hr⟩

/-- Settles O53: the marks of a tick, the two commands that take them, and the two that change nothing. -/
theorem timeMarks : Obligations.TimeMarks := by
  refine ⟨fun k s d h hd => ?_, fun k s h => ⟨rfl, rfl, ?_, fun hh q hq => ?_⟩⟩
  · have hs := active_iff.1 hd
    refine ⟨fun lfltn rxd t ht hdue hover => ?_, fun hst hr => ?_, fun hn => ?_, fun hst hr => ?_, fun hn => ?_⟩
    · rw [exec_msTick h] at ht
      cases ht
      refine ⟨{ d.tickPoll (s.sched.mscount + 1) with outstanding := d.outstanding.map Outstanding.tick }, ?_, ?_⟩
      · rw [msTick_entry, tick_of_active hs]
        rfl
      · simp [ActiveData.tickPoll, hdue, hover, setWidth_byte]
    · rw [exec_pollDue h hs, ActiveData.takeDue, if_pos ⟨hr, hst⟩]
    · rw [exec_pollDue h hs, ActiveData.takeDue, if_neg, setEntry_state_self hs]
      rintro ⟨hr, hst⟩
      rcases hn with hn | hn
      · exact hn hst
      · rw [hr] at hn
        cases hn
    · rw [exec_pollOverdue h hs, ActiveData.takeOverdue, if_pos ⟨hr, hst⟩]
    · rw [exec_pollOverdue h hs, ActiveData.takeOverdue, if_neg, setEntry_state_self hs]
      rintro ⟨hr, hst⟩
      rcases hn with hn | hn
      · exact hn hst
      · rw [hr] at hn
        cases hn
  · rw [censusWork_eq_none]
    simp only [← censusEligible_iff, Bool.not_eq_true]
  · rw [← Bool.not_eq_true]
    intro hc
    obtain ⟨-, -, h0, -⟩ := ready_of_isCandidate hc
    exact hh (hq ▸ h0)

/-! ## The choice of a call (O47) -/

theorem exec_callChoice {s : State} (h : s.Running) : exec .callChoice s = .next (chooseCall s) :=
  congrArg Host.Outcome.next (whileRunning_running h)

theorem chooseCall_of_some {s : State} (hi : s.link.state = .idle) {w : Work} (hw : s.nextWork = some w) :
    chooseCall s = takeWork w s := by
  simp [chooseCall, hi, hw]

theorem chooseCall_of_none {s : State} (hw : s.nextWork = none) : chooseCall s = s := by
  unfold chooseCall
  rw [hw]
  split <;> rfl

/-- With no work in the first five classes the choice is among the last three (R91). -/
theorem nextWork_of_lower {s : State}
    (hi : ∀ i, (s.entry i).releaseOwed = false ∧ (s.entry i).context? = none ∧ (s.entry i).standingIs .overdue = false)
    (ho : ∀ i ∈ s.sched.owed, (s.entry i).active? = none)
    (hq : 16 ≤ s.reservation ∨
      ∀ q ∈ s.ce.queue, q.settled ≠ none ∨ (s.entry q.held.cmd.target).active? = none ∨
        (s.entry q.held.cmd.target).hold ≠ 0 ∨ (s.entry q.held.cmd.target).outstanding? ≠ none ∨
        (s.entry q.held.cmd.target).verdictOwed ≠ none) :
    s.nextWork = (s.fetchWork <|> s.dueWork <|> s.censusWork) := by
  have hrel : s.releaseWork = none := by
    rw [State.releaseWork, find_allSlots_eq_none.2 fun i => (hi i).1]
    rfl
  have hver : s.verdictWork = none := by
    rw [State.verdictWork, List.find?_eq_none.2]
    · rfl
    · intro i h
      simp [Entry.isActive, ho i h]
  have hneg : s.negotiationWork = none := by
    rw [State.negotiationWork, find_slotsFrom_eq_none.2]
    · rfl
    · intro i
      simp [Entry.isNegotiating, (hi i).2.1]
  have hover : s.overdueWork = none := by
    rw [State.overdueWork, find_allSlots_eq_none.2 fun i => (hi i).2.2]
    rfl
  have hcmd : s.commandWork = none := by
    rw [State.commandWork, State.startable, List.find?_eq_none.2]
    · rfl
    · intro q hm hc
      obtain ⟨h1, h2, h3, h4, h5, h6⟩ := ready_of_isCandidate hc
      rcases hq with hq | hq
      · omega
      · rcases hq q hm with h | h | h | h | h
        · exact h h1
        · simp [Entry.isActive, h] at h2
        · exact h h3
        · exact h h4
        · exact h h5
  simp [State.nextWork, hrel, hver, hneg, hover, hcmd]

theorem fetchEligible_iff (s : State) (i : Slot) :
    s.fetchEligible i = true ↔
      (s.entry i).active?.isSome = true ∧ (s.entry i).fetchWanted = true ∧ s.deferredOf i = none ∧
        (s.entry i).verdictOwed = none := by
  simp [State.fetchEligible, Entry.isActive, and_assoc]

theorem fetchWork_eq_none {s : State} (h : 8 ≤ s.mu.queue.length ∨ ∀ i, s.fetchEligible i = false) :
    s.fetchWork = none := by
  rw [State.fetchWork]
  split
  next => rfl
  next hl =>
    rcases h with h | h
    · exact absurd h hl
    · rw [find_slotsFrom_eq_none.2 h]
      rfl

theorem dueWork_eq_none {s : State} (h : ∀ i, (s.entry i).standingIs .due = false) : s.dueWork = none := by
  rw [State.dueWork, find_allSlots_eq_none.2 h]
  rfl

/-- A call handed in while no stop is pending (R90). -/
theorem handIn_eq {s : State} (hp : s.link.stopPending = false) (c : Call) :
    handIn c s =
      { s with link :=
        { s.link with
          state := .sending, activity := .transmitting, attempt := 1, window := none, current := some c } } := by
  unfold handIn startExchange exchangeState State.setLink
  dsimp only
  rw [hp]
  rfl

/-- Settles O47: the three classes in turn, each with the pointer's slot it finds. -/
theorem callChoiceLowerClasses : Obligations.CallChoiceLowerClasses := by
  intro s h hidle hp hi ho hq
  have hnext := nextWork_of_lower hi ho hq
  have hnf : (8 ≤ s.mu.queue.length ∨ ∀ i, ¬ ((s.entry i).active?.isSome = true ∧ (s.entry i).fetchWanted = true ∧
      s.deferredOf i = none ∧ (s.entry i).verdictOwed = none)) → s.fetchWork = none := fun hf =>
    fetchWork_eq_none (hf.imp id fun hf i => by rw [← Bool.not_eq_true, fetchEligible_iff]; exact hf i)
  have hce : ∀ i, s.censusEligible i = true ↔ (s.entry i).state = .vacant ∧ (s.entry i).censusEnable = true :=
    fun i => by rw [censusEligible_iff, (hi i).1]; simp
  refine ⟨fun n hl hm hn => ?_, fun k hf hk hj => ?_, fun n hf hd hc hm hn => ?_, fun hf hd hc => ?_⟩
  · have hw : s.fetchWork = some (.fetch (s.sched.fetchPtr + n)) := by
      rw [State.fetchWork, if_neg (show ¬ Config.deferredPlaces ≤ s.mu.queue.length from Nat.not_le.2 hl), find_slotsFrom_eq_some ((fetchEligible_iff s _).2 hn)]
      · rfl
      · intro m hmn
        rw [← Bool.not_eq_true, fetchEligible_iff]
        exact hm m hmn
    rw [hw] at hnext
    rw [exec_callChoice h, chooseCall_of_some hidle hnext]
    exact congrArg Host.Outcome.next (handIn_eq (by exact hp) _)
  · have hw : s.dueWork = some (.duePoll k) := by
      rw [State.dueWork, find_allSlots_eq_some hk hj]
      rfl
    rw [hnf hf, hw] at hnext
    rw [exec_callChoice h, chooseCall_of_some hidle hnext]
    exact congrArg Host.Outcome.next (handIn_eq hp _)
  · have hw : s.censusWork = some (.census (s.sched.sweep + n)) := by
      rw [State.censusWork, if_neg (Nat.not_lt.2 hc), find_slotsFrom_eq_some ((hce _).2 hn)]
      · rfl
      · intro m hmn
        rw [← Bool.not_eq_true, hce]
        exact hm m hmn
    rw [hnf hf, dueWork_eq_none hd, hw] at hnext
    rw [exec_callChoice h, chooseCall_of_some hidle hnext]
    exact congrArg Host.Outcome.next (handIn_eq (by exact hp) _)
  · have hw : s.censusWork = none := by
      rw [censusWork_eq_none]
      exact hc.imp id fun hc i => by rw [← Bool.not_eq_true, hce]; exact hc i
    rw [hnf hf, dueWork_eq_none hd, hw] at hnext
    rw [exec_callChoice h, chooseCall_of_none hnext]

end Sys2Proof.Machine
end

section
/-! ## The restart of the link (O45)

A restart makes the entries VACANT one after another (R33). The state half-way is described by which entries are VACANT
already: `Restarting` says what has become of the owed order and the deferred queue, `RestartingCommands` what has become
of the commands. Each entry made VACANT keeps both, so they hold at the end, where every entry is VACANT. -/

namespace Sys2Proof.Machine

/-! ### Settling -/

theorem mem_of_mem_takeSettled {room : Nat} {l : List QueuedCommand} {q : QueuedCommand}
    (h : q ∈ (takeSettled room l).1) : q ∈ l := by
  induction l generalizing room with
  | nil => exact h
  | cons x l ih =>
    unfold takeSettled at h
    split at h
    · exact List.mem_cons_of_mem _ (ih h)
    all_goals
      rcases List.mem_cons.1 h with rfl | h
      · exact List.mem_cons_self
      · exact List.mem_cons_of_mem _ (ih h)

theorem unsettled_mem_takeSettled {room : Nat} {l : List QueuedCommand} {q : QueuedCommand} (h : q ∈ l)
    (hq : q.settled = none) : q ∈ (takeSettled room l).1 := by
  induction l generalizing room with
  | nil => exact h
  | cons x l ih =>
    unfold takeSettled
    rcases List.mem_cons.1 h with rfl | h
    · rw [hq]
      exact List.mem_cons_self
    · split
      · exact ih h
      all_goals exact List.mem_cons_of_mem _ (ih h)

theorem takeSettled_record {room : Nat} {l : List QueuedCommand} {r : Completion} (h : r ∈ (takeSettled room l).2) :
    ∃ q ∈ l, ∃ status, q.settled = some status ∧ r = q.held.completion status 0 [] := by
  induction l generalizing room with
  | nil => cases h
  | cons x l ih =>
    have hl : ∀ {k}, r ∈ (takeSettled k l).2 →
        ∃ q ∈ x :: l, ∃ status, q.settled = some status ∧ r = q.held.completion status 0 [] := fun h => by
      obtain ⟨q, hq, hr⟩ := ih h
      exact ⟨q, List.mem_cons_of_mem _ hq, hr⟩
    unfold takeSettled at h
    split at h
    next status k hs =>
      rcases List.mem_cons.1 h with rfl | h
      · exact ⟨x, List.mem_cons_self, status, hs, rfl⟩
      · exact hl h
    all_goals exact hl h

/-- What settling can do: a command that stays is one of the queue, marked if it was picked; an unsettled one stays; the
records are those of settled ones, appended; and the numbers balance (R125 to R127). -/
theorem settle_spec (pick : QueuedCommand → Bool) (st : CompletionStatus) (s : State) :
    ∃ ended, (settle pick st s).ce.completions = s.ce.completions ++ ended ∧
      (settle pick st s).ce.queue.length + ended.length = s.ce.queue.length ∧
      (∀ q ∈ (settle pick st s).ce.queue, ∃ x ∈ s.ce.queue, q = x.settleIf pick st) ∧
      (∀ x ∈ s.ce.queue, (x.settleIf pick st).settled = none →
        x.settleIf pick st ∈ (settle pick st s).ce.queue) ∧
      ∀ r ∈ ended, ∃ x ∈ s.ce.queue, ∃ status, (x.settleIf pick st).settled = some status ∧
        r = (x.settleIf pick st).held.completion status 0 [] := by
  refine ⟨_, rfl, ?_, fun q hq => ?_, fun x hx hn => ?_, fun r hr => ?_⟩
  · exact (takeSettled_length _ _).2.trans (List.length_map _)
  · obtain ⟨x, hx, rfl⟩ := List.mem_map.1 (mem_of_mem_takeSettled hq)
    exact ⟨x, hx, rfl⟩
  · exact unsettled_mem_takeSettled (List.mem_map_of_mem hx) hn
  · obtain ⟨q, hq, status, hs, rfl⟩ := takeSettled_record hr
    obtain ⟨x, hx, rfl⟩ := List.mem_map.1 hq
    exact ⟨x, hx, status, hs, rfl⟩

theorem settleIf_held (pick : QueuedCommand → Bool) (st : CompletionStatus) (q : QueuedCommand) :
    (q.settleIf pick st).held = q.held := by
  unfold QueuedCommand.settleIf
  split <;> rfl

theorem settleIf_of_picked {pick : QueuedCommand → Bool} {q : QueuedCommand} (h : pick q = true)
    (st : CompletionStatus) : (q.settleIf pick st).settled = some (q.settled.getD st) := by
  cases hs : q.settled <;> simp [QueuedCommand.settleIf, hs, h]

theorem settleIf_of_not_picked {pick : QueuedCommand → Bool} {q : QueuedCommand} (h : pick q = false)
    (st : CompletionStatus) : q.settleIf pick st = q := by
  simp [QueuedCommand.settleIf, h]

/-! ### One entry made VACANT -/

theorem restartEntry_of_vacant {s : State} {i : Slot} (h : (s.entry i).state = .vacant) : restartEntry s i = s := by
  unfold restartEntry
  rw [if_pos (isVacant_iff.2 h)]

theorem restartEntry_of_not {s : State} {i : Slot} (h : (s.entry i).state ≠ .vacant) :
    restartEntry s i = enterVacant i .linkRestart s := by
  unfold restartEntry
  rw [if_neg (fun hv => h (isVacant_iff.1 hv))]

theorem restartEntry_vacant_iff (s : State) (i j : Slot) :
    ((restartEntry s i).entry j).state = .vacant ↔ j = i ∨ (s.entry j).state = .vacant := by
  rw [restartEntry_entry]
  by_cases hj : j = i
  · subst hj
    by_cases hv : (s.entry j).state = .vacant <;> simp [hv, Entry.emptied, Entry.reset]
  · simp [hj]

theorem restartEntry_entry_or {s u : State} (h : ∀ j, u.entry j = s.entry j ∨ (u.entry j).state = .vacant) (i j : Slot) :
    (restartEntry u i).entry j = s.entry j ∨ ((restartEntry u i).entry j).state = .vacant := by
  rw [restartEntry_vacant_iff, restartEntry_entry]
  by_cases hj : j = i
  · exact Or.inr (Or.inl hj)
  · rw [if_neg fun hx => hj hx.1]
    exact (h j).imp id Or.inr

theorem table_ext {s t : State} (h : ∀ j, s.entry j = t.entry j) : s.table = t.table :=
  Vector.ext fun j hj => h ⟨j, hj⟩

/-- An entry made VACANT has no outstanding command any more. -/
theorem enterVacant_outstandingCount (i : Slot) (st : CompletionStatus) (s : State) :
    (enterVacant i st s).outstandingCount + (s.entry i).share = s.outstandingCount := by
  have ht : (enterVacant i st s).table = (s.setEntry i (s.entry i).emptied).table :=
    table_ext fun j => (enterVacant_entry i st s j).trans (entry_setEntry i j _ s).symm
  rw [outstandingCount_congr ht, outstandingCount_setEntry]
  rfl

theorem share_of_not_active {e : Entry} (h : e.active? = none) : e.share = 0 := by
  simp [Entry.share, Entry.outstanding?, h]

theorem share_of_active {e : Entry} {d : ActiveData} (h : e.state = .active d) :
    e.share = d.outstanding.toList.length := by
  rw [Entry.share, outstanding_of_active h]
  cases d.outstanding <;> rfl

/-! ### The deferred queue and the owed order -/

/-- What every reachable state has: deferred entries, owed verdicts and the owed order belong to entries that are not
VACANT, and no two deferred entries share a slot or a handle (R93, R149). -/
structure RestartReady (s : State) : Prop where
  deferred : ∀ d ∈ s.mu.queue, (s.entry d.slot).state ≠ .vacant
  slots : (s.mu.queue.map Deferred.slot).Nodup
  handles : (s.mu.queue.map Deferred.handle).Nodup
  owed : ∀ i ∈ s.sched.owed, (s.entry i).state ≠ .vacant

theorem deferredOf_iff {s : State} (h : (s.mu.queue.map Deferred.slot).Nodup) {i : Slot} {d : Deferred} :
    s.deferredOf i = some d ↔ d ∈ s.mu.queue ∧ d.slot = i := by
  refine ⟨fun hd => ⟨List.mem_of_find?_eq_some hd, by simpa using List.find?_some hd⟩, fun ⟨hm, hi⟩ => ?_⟩
  cases hx : s.deferredOf i with
  | none => exact absurd hi (by simpa using List.find?_eq_none.1 hx d hm)
  | some x =>
    have hxi : x.slot = i := by simpa using List.find?_some hx
    exact congrArg some (List.inj_on_of_nodup_map h (List.mem_of_find?_eq_some hx) hm (hxi.trans hi.symm))

/-- The slot's deferred entry, if it has one, is what leaves the queue. -/
theorem orphan_queue {s : State} (hs : (s.mu.queue.map Deferred.slot).Nodup)
    (hh : (s.mu.queue.map Deferred.handle).Nodup) (i : Slot) :
    (orphan i s).mu.queue = s.mu.queue.filter fun d => d.slot != i := by
  cases hd : s.deferredOf i with
  | none =>
    rw [orphan_of_none hd, eq_comm, List.filter_eq_self]
    intro d hm
    simpa using List.find?_eq_none.1 hd d hm
  | some x =>
    obtain ⟨hx, hxi⟩ := (deferredOf_iff hs).1 hd
    rw [orphan_queue_of_some hd]
    refine List.filter_congr fun y hy => ?_
    have hiff : y.handle = x.handle ↔ y.slot = i :=
      ⟨fun h => List.inj_on_of_nodup_map hh hy hx h ▸ hxi,
        fun h => by rw [List.inj_on_of_nodup_map hs hy hx (h.trans hxi.symm)]⟩
    rw [Bool.eq_iff_iff, bne_iff_ne, bne_iff_ne, ne_eq, ne_eq, hiff]

theorem orphan_handle (i : Slot) (s : State) (h : Handle) :
    (orphan i s).mu.handles[h.val] =
      if ∃ d, s.deferredOf i = some d ∧ d.handle = h then ⟨s.mu.handles[h.val].generation, .gone⟩
      else s.mu.handles[h.val] := by
  cases hd : s.deferredOf i with
  | none => simp [orphan_of_none hd]
  | some x =>
    by_cases hx : x.handle = h
    · subst hx
      simp [orphan_handles_of_some hd]
    · have hne : x.handle.val ≠ h.val := fun he => hx (Fin.ext he)
      simp [orphan_handles_of_some hd, Vector.getElem_set_ne, hne, hx]

/-- The owed order and the deferred queue while entries are made VACANT: what belongs to a VACANT entry has left, and the
handles of the deferred entries that left are GONE (R93, R152). -/
structure Restarting (s u : State) : Prop where
  entry : ∀ j, u.entry j = s.entry j ∨ (u.entry j).state = .vacant
  sched : u.sched = { s.sched with owed := s.sched.owed.filter fun j => decide ((u.entry j).state ≠ .vacant) }
  queue : u.mu.queue = s.mu.queue.filter fun d => decide ((u.entry d.slot).state ≠ .vacant)
  handles : ∀ h : Handle, u.mu.handles[h.val] =
    if ∃ d ∈ s.mu.queue, d.handle = h ∧ (u.entry d.slot).state = .vacant then ⟨s.mu.handles[h.val].generation, .gone⟩
    else s.mu.handles[h.val]

theorem Restarting.refl {s : State} (hs : RestartReady s) : Restarting s s where
  entry _ := Or.inl rfl
  sched := by
    rw [List.filter_eq_self.2 fun j hj => by simpa using hs.owed j hj]
  queue := by
    rw [List.filter_eq_self.2 fun d hd => by simpa using hs.deferred d hd]
  handles h := by
    rw [if_neg]
    rintro ⟨d, hd, -, hv⟩
    exact hs.deferred d hd hv

/-- The deferred entry of an entry that is not VACANT yet is still in the queue. -/
theorem Restarting.deferredOf {s u : State} (h : Restarting s u) {i : Slot} (hi : (u.entry i).state ≠ .vacant) :
    u.deferredOf i = s.deferredOf i := by
  unfold State.deferredOf
  rw [h.queue, List.find?_filter]
  congr 1
  funext d
  by_cases hd : d.slot = i
  · subst hd
    simp [hi]
  · simp [hd]

theorem Restarting.step {s u : State} (hs : RestartReady s) (h : Restarting s u) (i : Slot) :
    Restarting s (restartEntry u i) := by
  by_cases hi : (u.entry i).state = .vacant
  · rw [restartEntry_of_vacant hi]
    exact h
  have hv := restartEntry_vacant_iff u i
  have hsub : u.mu.queue.Sublist s.mu.queue := h.queue ▸ List.filter_sublist
  refine ⟨restartEntry_entry_or h.entry i, ?_, ?_, fun g => ?_⟩
  · rw [restartEntry_of_not hi, enterVacant_sched, h.sched, List.filter_filter, ← restartEntry_of_not hi]
    refine congrArg (fun l => { s.sched with owed := l }) (List.filter_congr fun j _ => ?_)
    rw [Bool.eq_iff_iff]
    simp [hv]
  · rw [restartEntry_of_not hi, enterVacant_mu, orphan_queue ((hsub.map _).nodup hs.slots) ((hsub.map _).nodup hs.handles),
      h.queue, List.filter_filter, ← restartEntry_of_not hi]
    refine List.filter_congr fun d _ => ?_
    rw [Bool.eq_iff_iff]
    simp [hv]
  · have hgen : u.mu.handles[g.val].generation = s.mu.handles[g.val].generation := by
      rw [h.handles]
      split <;> rfl
    have hmem : (∃ d, u.deferredOf i = some d ∧ d.handle = g) ↔ ∃ d ∈ s.mu.queue, d.handle = g ∧ d.slot = i := by
      simp only [h.deferredOf hi, deferredOf_iff hs.slots]
      exact ⟨fun ⟨d, ⟨hd, hdi⟩, hg⟩ => ⟨d, hd, hg, hdi⟩, fun ⟨d, hd, hg, hdi⟩ => ⟨d, ⟨hd, hdi⟩, hg⟩⟩
    have hor : (∃ d ∈ s.mu.queue, d.handle = g ∧ ((restartEntry u i).entry d.slot).state = .vacant) ↔
        (∃ d ∈ s.mu.queue, d.handle = g ∧ d.slot = i) ∨
          ∃ d ∈ s.mu.queue, d.handle = g ∧ (u.entry d.slot).state = .vacant := by
      simp only [hv, and_or_left, exists_or]
    simp only [hor]
    rw [restartEntry_of_not hi, enterVacant_mu, orphan_handle, hgen, h.handles]
    simp only [hmem]
    by_cases ha : ∃ d ∈ s.mu.queue, d.handle = g ∧ d.slot = i
    · rw [if_pos ha, if_pos (Or.inl ha)]
    · simp only [ha, false_or, if_false]

theorem Restarting.fold {s u : State} (hs : RestartReady s) (h : Restarting s u) (l : List Slot) :
    Restarting s (l.foldl restartEntry u) := by
  induction l generalizing u with
  | nil => exact h
  | cons i l ih => exact ih (h.step hs i)

/-! ### The commands -/

/-- The commands of an entry have ended: it was ACTIVE and is VACANT. -/
def CommandsEnded (s u : State) (k : Slot) : Prop := (s.entry k).isActive = true ∧ (u.entry k).state = .vacant

/-- A record that a restart writes: of an outstanding command, or of a queued command that was settled before or goes to
an entry that was ACTIVE (R18, R127). -/
def RestartRecord (s : State) (r : Completion) : Prop :=
  (∃ i o, (s.entry i).outstanding? = some o ∧ r = o.held.completion .linkRestart 0 []) ∨
    ∃ x ∈ s.ce.queue, (x.settled ≠ none ∨ (s.entry x.held.cmd.target).isActive = true) ∧
      r = x.held.completion (x.settled.getD .linkRestart) 0 []

/-- A queued command `x` as a restart has left it, `q`: settled if the commands of its target have ended. -/
structure RestartSettled (s u : State) (x q : QueuedCommand) : Prop where
  held : x.held = q.held
  ended : CommandsEnded s u x.held.cmd.target → q.settled = some (x.settled.getD .linkRestart)
  kept : ¬ CommandsEnded s u x.held.cmd.target → q.settled = x.settled

theorem RestartSettled.congr {s u v : State} {x q : QueuedCommand} (h : RestartSettled s u x q)
    (he : CommandsEnded s v x.held.cmd.target ↔ CommandsEnded s u x.held.cmd.target) : RestartSettled s v x q :=
  ⟨h.held, fun hx => h.ended (he.1 hx), fun hx => h.kept (mt he.2 hx)⟩

/-- The commands while entries are made VACANT. -/
structure RestartingCommands (s u : State) : Prop where
  entry : ∀ j, u.entry j = s.entry j ∨ (u.entry j).state = .vacant
  queue : ∀ q ∈ u.ce.queue, ∃ x ∈ s.ce.queue, RestartSettled s u x q
  kept : ∀ q ∈ s.ce.queue, ¬ CommandsEnded s u q.held.cmd.target → q.settled = none → q ∈ u.ce.queue
  outstanding : ∀ i o, (s.entry i).outstanding? = some o → (u.entry i).state = .vacant →
    o.held.completion .linkRestart 0 [] ∈ u.ce.completions
  records : ∃ ended, u.ce.completions = s.ce.completions ++ ended ∧
    u.ce.queue.length + ended.length + u.outstandingCount = s.ce.queue.length + s.outstandingCount ∧
    ∀ r ∈ ended, RestartRecord s r
  inFlight : u.ce.inFlight = s.ce.inFlight
  nextPlace : u.ce.nextPlace = s.ce.nextPlace

theorem not_commandsEnded_self (s : State) (k : Slot) : ¬ CommandsEnded s s k := by
  rintro ⟨ha, hv⟩
  simp [Entry.isActive, Entry.active?, hv] at ha

theorem RestartingCommands.refl (s : State) : RestartingCommands s s where
  entry _ := Or.inl rfl
  queue q hq := ⟨q, hq, rfl, fun hx => absurd hx (not_commandsEnded_self s _), fun _ => rfl⟩
  kept _ hq _ _ := hq
  outstanding i o ho hv := by simp [Entry.outstanding?, Entry.active?, hv] at ho
  records := ⟨[], by simp, by simp, by simp⟩
  inFlight := rfl
  nextPlace := rfl

theorem commandsEnded_step {s u : State} (i k : Slot) :
    CommandsEnded s (restartEntry u i) k ↔ ((s.entry k).isActive = true ∧ k = i) ∨ CommandsEnded s u k := by
  unfold CommandsEnded
  rw [restartEntry_vacant_iff, and_or_left]

/-- An entry that was not ACTIVE has no command to end. -/
theorem RestartingCommands.step_of_not {s u : State} (h : RestartingCommands s u) {i : Slot}
    (hn : (s.entry i).active? = none) (hi : u.entry i = s.entry i) (hv : (u.entry i).state ≠ .vacant) :
    RestartingCommands s (restartEntry u i) := by
  have hce : (restartEntry u i).ce = u.ce := by
    rw [restartEntry_of_not hv, enterVacant_ce, endCommands_of_not (hi ▸ hn)]
  have hcount : (restartEntry u i).outstandingCount = u.outstandingCount := by
    have hc := enterVacant_outstandingCount i .linkRestart u
    rw [restartEntry_of_not hv, ← hc, hi, share_of_not_active hn]
    rfl
  have hended : ∀ k, CommandsEnded s (restartEntry u i) k ↔ CommandsEnded s u k := fun k => by
    rw [commandsEnded_step]
    refine or_iff_right fun hx => ?_
    obtain ⟨ha, rfl⟩ := hx
    simp [Entry.isActive, hn] at ha
  refine ⟨restartEntry_entry_or h.entry i, fun q hq => ?_, ?_, fun j o ho hj => ?_, ?_, ?_, ?_⟩
  · rw [hce] at hq
    obtain ⟨x, hx, hset⟩ := h.queue q hq
    exact ⟨x, hx, hset.congr (hended _)⟩
  · simp only [hended, hce]
    exact h.kept
  · rw [hce]
    rcases (restartEntry_vacant_iff u i j).1 hj with rfl | hj
    · simp [Entry.outstanding?, hn] at ho
    · exact h.outstanding j o ho hj
  · rw [hce, hcount]
    exact h.records
  · rw [hce, h.inFlight]
  · rw [hce, h.nextPlace]

/-- Settling the commands of an ACTIVE entry when it is made VACANT settles those queued to it, and no other. -/
theorem RestartSettled.settleIf {s u : State} {x q : QueuedCommand} (h : RestartSettled s u x q) {i : Slot}
    (ha : (s.entry i).isActive = true) (hv : (u.entry i).state ≠ .vacant) :
    RestartSettled s (restartEntry u i) x (q.settleIf (fun q => q.held.cmd.target == i) .linkRestart) := by
  by_cases ht : x.held.cmd.target = i
  · have hp : (q.held.cmd.target == i) = true := by rw [← h.held, ht]; simp
    refine ⟨by rw [settleIf_held, h.held], fun _ => ?_, fun hne => ?_⟩
    · rw [settleIf_of_picked hp, h.kept fun hx => hv (ht ▸ hx.2)]
    · exact absurd ((commandsEnded_step i _).2 (Or.inl ⟨ht ▸ ha, ht⟩)) hne
  · have hp : (q.held.cmd.target == i) = false := by rw [← h.held]; simpa using ht
    rw [settleIf_of_not_picked hp]
    exact h.congr ((commandsEnded_step i _).trans (or_iff_right fun hx => ht hx.2))

/-- An ACTIVE entry: its outstanding command ends with a record, and then the commands queued to it are settled (R18). -/
theorem RestartingCommands.step_of_active {s u : State} (h : RestartingCommands s u) {i : Slot} {d : ActiveData}
    (hs : (s.entry i).state = .active d) (hi : u.entry i = s.entry i) :
    RestartingCommands s (restartEntry u i) := by
  have hus : (u.entry i).state = .active d := by rw [hi, hs]
  have hv : (u.entry i).state ≠ .vacant := by rw [hus]; intro hx; cases hx
  have hce := (congrArg State.ce (restartEntry_of_not hv)).trans
    ((enterVacant_ce i .linkRestart u).trans (congrArg State.ce (endCommands_of_active hus .linkRestart)))
  obtain ⟨ended, hcomp, hlen, hqueue, hkept, hrec⟩ := settle_spec (fun q => q.held.cmd.target == i) .linkRestart
    { u with
      table := u.table.set i.val ((u.entry i).setOutstanding none)
      ce :=
        { u.ce with completions :=
          u.ce.completions ++ d.outstanding.toList.map fun o => o.held.completion .linkRestart 0 [] } }
  rw [← hce] at hcomp hlen hqueue hkept
  have hact : (s.entry i).isActive = true := isActive_of_state hs
  -- a queued command after this entry, whether it stays or its record is written
  have hsettled : ∀ x' ∈ u.ce.queue, ∃ x ∈ s.ce.queue,
      RestartSettled s (restartEntry u i) x (x'.settleIf (fun q => q.held.cmd.target == i) .linkRestart) := fun x' hx' =>
    (h.queue x' hx').imp fun x hx => ⟨hx.1, hx.2.settleIf hact hv⟩
  refine ⟨restartEntry_entry_or h.entry i, fun q hq => ?_, fun q hq hne hqs => ?_, fun j o ho hj => ?_, ?_, ?_, ?_⟩
  · obtain ⟨x', hx', rfl⟩ := hqueue q hq
    exact hsettled x' hx'
  · rw [commandsEnded_step, not_or] at hne
    have ht : q.held.cmd.target ≠ i := fun hx => hne.1 ⟨hx ▸ hact, hx⟩
    have hp : (q.held.cmd.target == i) = false := by simpa using ht
    have hk := hkept q (h.kept q hq hne.2 hqs)
    rw [settleIf_of_not_picked hp] at hk
    exact hk hqs
  · rw [hcomp, List.mem_append, List.mem_append]
    rcases (restartEntry_vacant_iff u i j).1 hj with rfl | hj
    · rw [outstanding_of_active hs] at ho
      exact Or.inl (Or.inr (by simp [ho]))
    · exact Or.inl (Or.inl (h.outstanding j o ho hj))
  · obtain ⟨before, hb, hblen, hbrec⟩ := h.records
    refine ⟨before ++ (d.outstanding.toList.map fun o => o.held.completion .linkRestart 0 []) ++ ended, ?_, ?_, ?_⟩
    · rw [hcomp, hb]
      simp
    · have hc := enterVacant_outstandingCount i .linkRestart u
      rw [← restartEntry_of_not hv, hi, share_of_active hs] at hc
      simp only [List.length_append, List.length_map] at hlen ⊢
      omega
    · intro r hr
      rw [List.mem_append, List.mem_append] at hr
      rcases hr with (hr | hr) | hr
      · exact hbrec r hr
      · obtain ⟨o, ho, rfl⟩ := List.mem_map.1 hr
        refine Or.inl ⟨i, o, ?_, rfl⟩
        rw [outstanding_of_active hs]
        simpa using ho
      · obtain ⟨x', hx', status, hst, rfl⟩ := hrec r hr
        obtain ⟨x, hx, hset⟩ := hsettled x' hx'
        refine Or.inr ⟨x, hx, ?_⟩
        rw [← hset.held]
        by_cases he : CommandsEnded s (restartEntry u i) x.held.cmd.target
        · refine ⟨Or.inr he.1, ?_⟩
          rw [Option.some.inj (hst.symm.trans (hset.ended he))]
        · have hxs := (hset.kept he).symm.trans hst
          simp [hxs]
  · rw [hce]
    exact h.inFlight
  · rw [hce]
    exact h.nextPlace

theorem RestartingCommands.step {s u : State} (h : RestartingCommands s u) (i : Slot) :
    RestartingCommands s (restartEntry u i) := by
  by_cases hv : (u.entry i).state = .vacant
  · rw [restartEntry_of_vacant hv]
    exact h
  · have hi := (h.entry i).resolve_right hv
    cases ha : (s.entry i).active? with
    | none => exact h.step_of_not ha hi hv
    | some d => exact h.step_of_active (active_iff.1 ha) hi

theorem RestartingCommands.fold {s u : State} (h : RestartingCommands s u) (l : List Slot) :
    RestartingCommands s (l.foldl restartEntry u) := by
  induction l generalizing u with
  | nil => exact h
  | cons i l ih => exact ih (h.step i)

/-! ### The order of the records and of the notices -/

/-- The end of one slot's commands at a restart, the slot's entry being as it was before the restart. -/
def endSlotCommands (s u : State) (i : Slot) : State :=
  match (s.entry i).active? with
  | none => u
  | some d =>
    settle (fun q => q.held.cmd.target == i) .linkRestart
      { u with
        table := u.table.set i.val ((s.entry i).setOutstanding none)
        ce :=
          { u.ce with completions := u.ce.completions ++ d.outstanding.toList.map fun o =>
              o.held.completion .linkRestart 0 [] } }

theorem restartFold_entry_of_ne {u : State} {i j : Slot} (hj : j ≠ i) : (restartEntry u i).entry j = u.entry j := by
  rw [restartEntry_entry, if_neg fun hx => hj hx.1]

theorem endSlotCommands_entry_of_ne {s u : State} {i j : Slot} (hj : j ≠ i) :
    (endSlotCommands s u i).entry j = u.entry j := by
  unfold endSlotCommands
  split
  · rfl
  · rw [settle_entry]
    exact entry_setEntry_ne hj _ u

theorem endSlotCommands_of_not {s : State} {i : Slot} (h : (s.entry i).active? = none) (u : State) :
    endSlotCommands s u i = u := by
  unfold endSlotCommands
  rw [h]

theorem endSlotCommands_of_active {s : State} {i : Slot} {d : ActiveData} (h : (s.entry i).active? = some d)
    (u : State) :
    endSlotCommands s u i =
      settle (fun q => q.held.cmd.target == i) .linkRestart
        { u with
          table := u.table.set i.val ((s.entry i).setOutstanding none)
          ce :=
            { u.ce with completions := u.ce.completions ++ d.outstanding.toList.map fun o =>
                o.held.completion .linkRestart 0 [] } } := by
  unfold endSlotCommands
  rw [h]

/-- The commands at a restart end slot by slot: what else an entry made VACANT drops does not bear on them. -/
theorem restartFold_ce {s : State} {l : List Slot} (hl : l.Nodup) {u v : State} (hu : ∀ i ∈ l, u.entry i = s.entry i)
    (hv : ∀ i ∈ l, v.entry i = s.entry i) (hce : u.ce = v.ce) (hc : u.outstandingCount = v.outstandingCount) :
    (l.foldl restartEntry u).ce = (l.foldl (endSlotCommands s) v).ce := by
  induction l generalizing u v with
  | nil => exact hce
  | cons i l ih =>
    obtain ⟨hil, hl⟩ := List.nodup_cons.1 hl
    have hui := hu i List.mem_cons_self
    have hvi := hv i List.mem_cons_self
    have hne : ∀ j ∈ l, j ≠ i := fun j hj hji => hil (hji ▸ hj)
    suffices hstep : (restartEntry u i).ce = (endSlotCommands s v i).ce ∧
        (restartEntry u i).outstandingCount = (endSlotCommands s v i).outstandingCount from
      ih hl (fun j hj => (restartFold_entry_of_ne (hne j hj)).trans (hu j (List.mem_cons_of_mem _ hj)))
        (fun j hj => (endSlotCommands_entry_of_ne (hne j hj)).trans (hv j (List.mem_cons_of_mem _ hj)))
        hstep.1 hstep.2
    have hcount := enterVacant_outstandingCount i .linkRestart u
    rw [hui] at hcount
    cases ha : (s.entry i).active? with
    | none =>
      rw [endSlotCommands_of_not ha]
      by_cases hvac : (u.entry i).state = .vacant
      · rw [restartEntry_of_vacant hvac]
        exact ⟨hce, hc⟩
      · rw [share_of_not_active ha] at hcount
        rw [restartEntry_of_not hvac, enterVacant_ce, endCommands_of_not (hui ▸ ha)]
        exact ⟨hce, by omega⟩
    | some d =>
      have hs := active_iff.1 ha
      have hus : (u.entry i).state = .active d := by rw [hui, hs]
      have hvac : (u.entry i).state ≠ .vacant := by rw [hus]; intro hx; cases hx
      have hcu := outstandingCount_setEntry i ((s.entry i).setOutstanding none) u
      have hcv := outstandingCount_setEntry i ((s.entry i).setOutstanding none) v
      rw [hui] at hcu
      rw [hvi] at hcv
      have hzero : ((s.entry i).setOutstanding none).share = 0 := by
        simp [Entry.share]
      rw [restartEntry_of_not hvac, enterVacant_ce, endCommands_of_active hus, endSlotCommands_of_active ha, hui]
      refine ⟨settle_ce_congr _ _ ?_ ?_, ?_⟩
      · rw [hce]
      · show (u.setEntry i _).outstandingCount = (v.setEntry i _).outstandingCount
        omega
      · rw [outstandingCount_congr (settle_table _ _ _)]
        show _ = (v.setEntry i _).outstandingCount
        omega

/-- The notice of one slot's deferred entry at a restart. -/
def postSlotGone (s u : State) (i : Slot) : State :=
  match s.deferredOf i with
  | none => u
  | some d => post .deferredGone (slotByte i) (handleByte d.handle) u

theorem postSlotGone_sched (s u : State) (i : Slot) : (postSlotGone s u i).sched = u.sched := by
  unfold postSlotGone
  split
  · rfl
  · rw [post_sched]

/-- The notices of a restart, slot by slot. -/
theorem restartFold_nq {s : State} (hs : RestartReady s) {l : List Slot} (hl : l.Nodup) {u v : State}
    (hr : Restarting s u) (hu : ∀ i ∈ l, u.entry i = s.entry i) (hn : u.nq = v.nq)
    (hm : u.sched.mscount = v.sched.mscount) :
    (l.foldl restartEntry u).nq = (l.foldl (postSlotGone s) v).nq := by
  induction l generalizing u v with
  | nil => exact hn
  | cons i l ih =>
    obtain ⟨hil, hl⟩ := List.nodup_cons.1 hl
    have hui := hu i List.mem_cons_self
    have hne : ∀ j ∈ l, j ≠ i := fun j hj hji => hil (hji ▸ hj)
    refine ih hl (hr.step hs i) (fun j hj => ?_) ?_ ?_
    · exact (restartFold_entry_of_ne (hne j hj)).trans (hu j (List.mem_cons_of_mem _ hj))
    · by_cases hv : (u.entry i).state = .vacant
      · have hd : s.deferredOf i = none := by
          cases hd : s.deferredOf i with
          | none => rfl
          | some d =>
            obtain ⟨hm, hdi⟩ := (deferredOf_iff hs.slots).1 hd
            exact absurd (hui ▸ hv) (hdi ▸ hs.deferred d hm)
        rw [restartEntry_of_vacant hv, postSlotGone, hd]
        exact hn
      · have hdu := hr.deferredOf hv
        rw [restartEntry_of_not hv, enterVacant_nq]
        cases hd : s.deferredOf i with
        | none =>
          rw [orphan_of_none (hdu.trans hd), postSlotGone, hd]
          exact hn
        | some d =>
          rw [orphan_nq_of_some (hdu.trans hd), postSlotGone, hd]
          exact post_nq_congr _ _ _ hn hm
    · rw [restartEntry_sched_mscount, postSlotGone_sched, hm]

theorem postSlotGoneFold_sched (s : State) (l : List Slot) (u : State) :
    (l.foldl (postSlotGone s) u).sched = u.sched := by
  induction l generalizing u with
  | nil => rfl
  | cons i l ih => exact (ih _).trans (postSlotGone_sched s u i)

/-! ### The whole restart -/

theorem restartTable_sched (s : State) : (restartTable s).sched = (allSlots.foldl restartEntry s).sched := by
  simp [restartTable]

theorem restartTable_mu (s : State) : (restartTable s).mu = (allSlots.foldl restartEntry s).mu := by
  simp [restartTable]

theorem restartTable_ce (s : State) : (restartTable s).ce = (allSlots.foldl restartEntry s).ce := by
  simp [restartTable]

theorem restartTable_nq (s : State) :
    (restartTable s).nq = (post .linkRestarted 0 0 (allSlots.foldl restartEntry s)).nq := by
  unfold restartTable
  generalize allSlots.foldl restartEntry s = u
  exact post_nq_congr _ _ _ rfl rfl

theorem restartFold_vacant (s : State) (j : Slot) : ((allSlots.foldl restartEntry s).entry j).state = .vacant := by
  rw [restartFold_entry]
  by_cases hv : (s.entry j).state = .vacant <;> simp [hv, mem_allSlots, Entry.emptied, Entry.reset]

theorem outstandingCount_of_vacant {s : State} (h : ∀ j, (s.entry j).state = .vacant) : s.outstandingCount = 0 := by
  unfold State.outstandingCount
  rw [List.countP_eq_zero]
  intro e he
  obtain ⟨j, hj, rfl⟩ := List.mem_iff_getElem.1 he
  have hv := h ⟨j, by simpa using hj⟩
  simp only [State.entry] at hv
  simp [Entry.outstanding?, Entry.active?, hv]

/-- The broadcast RELEASE, byte by byte (R85, R190). -/
theorem broadcastFrame_eq : broadcastFrame = [0xC3, 0x1F, 0x08, 0x00, 0x67, 0x2A] := by decide +kernel

theorem exec_restartLink {s : State} (h : s.Running) :
    exec .restartLink s = .next ((restartLink s).1.acted 0x03 (restartLink s).2) :=
  congrArg Host.Outcome.next (whileRunning_running h)

theorem restartLink_of_busy {s : State} (ho : s.link.state ≠ .off) (hi : s.link.state ≠ .idle) :
    restartLink s = ({ s with link := { s.link with restartPending := true } }, .done) := by
  unfold Machine.restartLink
  split
  next h => exact absurd h ho
  next h => exact absurd h hi
  all_goals rfl

theorem restartLink_of_idle {s : State} (h : s.link.state = .idle) : restartLink s = (beginRestart s, .done) := by
  unfold Machine.restartLink
  rw [h]

theorem txFrame_of_broadcasting {s : State} (hs : s.link.state = .broadcasting) (ha : s.link.activity = .transmitting) :
    s.txFrame = some [0xC3, 0x1F, 0x08, 0x00, 0x67, 0x2A] := by
  simp [State.txFrame, State.txen, hs, ha, broadcastFrame_eq]

theorem restartTable_ce_eq (s : State) :
    (restartTable s).ce = ((List.finRange 30).foldl (endSlotCommands s) s).ce :=
  (restartTable_ce s).trans
    (restartFold_ce (List.nodup_finRange 30) (fun _ _ => rfl) (fun _ _ => rfl) rfl rfl)

theorem restartTable_nq_eq {s : State} (hs : RestartReady s) :
    (restartTable s).nq = (post .linkRestarted 0 0 ((List.finRange 30).foldl (postSlotGone s) s)).nq :=
  (restartTable_nq s).trans
    (post_nq_congr _ _ _
      (restartFold_nq hs (List.nodup_finRange 30) (Restarting.refl hs) (fun _ _ => rfl) rfl rfl)
      ((restartFold_sched_mscount _ _).trans (congrArg Scheduler.mscount (postSlotGoneFold_sched s _ s).symm)))

/-- Settles O45: the action by the state of the engine, and the restart from what its fold over the slots keeps. -/
theorem Settled.restartLink : Obligations.RestartLink := by
  refine ⟨fun s h => ⟨fun hl => ?_, fun ho hi => ?_, fun hl => ?_⟩, fun s hd hslots hhandles _ howed => ?_⟩
  · rw [exec_restartLink h]
    simp [Machine.restartLink, hl]
  · rw [exec_restartLink h, restartLink_of_busy ho hi]
  · refine ⟨_, (exec_restartLink h).trans (by rw [restartLink_of_idle hl, beginRestart_eq]), rfl, ?_⟩
    exact txFrame_of_broadcasting rfl rfl
  · have hs : RestartReady s := ⟨hd, hslots, hhandles, howed⟩
    have hr := (Restarting.refl hs).fold hs allSlots
    have hc := (RestartingCommands.refl s).fold allSlots
    have hvac := restartFold_vacant s
    have hended : ∀ k, CommandsEnded s (allSlots.foldl restartEntry s) k ↔ (s.entry k).isActive = true := fun k =>
      and_iff_left (hvac k)
    refine ⟨restartTable_entry_eq s, ?_, ?_, by simp, fun g => ?_, restartTable_ce_eq s, fun q hq => ?_,
      fun q hq ha hn => ?_, fun i o ho => ?_, ?_, ?_, ?_, restartTable_nq_eq hs, by simp, by simp, by simp, by simp,
      by simp⟩
    · rw [restartTable_sched, hr.sched]
      simp [hvac]
    · rw [restartTable_mu, hr.queue]
      simp [hvac]
    · rw [restartTable_mu, hr.handles]
      simp [hvac]
    · rw [restartTable_ce] at hq
      obtain ⟨x, hx, hset⟩ := hc.queue q hq
      refine ⟨x, hx, hset.held, ?_⟩
      split
      next ha => exact hset.ended ((hended _).2 ha)
      next ha => exact hset.kept (mt (hended _).1 ha)
    · rw [restartTable_ce]
      exact hc.kept q hq (fun he => by rw [(hended _).1 he] at ha; cases ha) hn
    · rw [restartTable_ce]
      exact hc.outstanding i o ho (hvac i)
    · obtain ⟨ended, he, hlen, hrec⟩ := hc.records
      rw [outstandingCount_of_vacant hvac, Nat.add_zero] at hlen
      rw [restartTable_ce]
      exact ⟨ended, he, hlen, hrec⟩
    · rw [restartTable_ce, hc.inFlight]
    · rw [restartTable_ce, hc.nextPlace]

end Sys2Proof.Machine
end

section
/-! ## The local page list and its validation (O42)

The machine that validates the list, `validRest`, counts the arguments still to come; R38 speaks of the places of the
list. Between the two stands `RestOk`: the places where an argument is called for are the places of the UNFORMATTED
entries. -/

namespace Sys2Proof.Machine

/-- The entry may stand after entry 0, by its own fields (R38). -/
def LocalPage.RestKind (p : LocalPage) : Prop :=
  p.kind ≠ .base ∧ p.kind ≠ .null ∧ (p.kind = .message → p.body.code ≠ 0 ∧ p.body.argCount ≤ 4)

/-- Place n calls for an argument: it is among the `args` places that an earlier MESSAGE claims, or a MESSAGE of the list
claims it. -/
def Claimed (args : Nat) (l : List LocalPage) (n : Nat) : Prop :=
  n < args ∨ ∃ k q, l[k]? = some q ∧ q.kind = .message ∧ k < n ∧ n ≤ k + q.body.argCount

/-- The entries of the list after entry 0 stand as R38 asks, with `args` arguments still to come. -/
def RestOk (args : Nat) (l : List LocalPage) : Prop :=
  (∀ p ∈ l, p.RestKind) ∧ ∀ n, Claimed args l n ↔ ∃ p, l[n]? = some p ∧ p.kind = .unformatted

/-- The arguments still to come after an entry. -/
def LocalPage.argsAfter (args : Nat) (p : LocalPage) : Nat :=
  if p.kind = .message then p.body.argCount else args - 1

theorem claimed_cons_zero (args : Nat) (p : LocalPage) (l : List LocalPage) : Claimed args (p :: l) 0 ↔ 0 < args := by
  simp [Claimed]

theorem claimed_cons_succ {args : Nat} {p : LocalPage} (h : p.kind = .message → args = 0) (l : List LocalPage) (n : Nat) :
    Claimed args (p :: l) (n + 1) ↔ Claimed (p.argsAfter args) l n := by
  have hsplit : (∃ k q, (p :: l)[k]? = some q ∧ q.kind = .message ∧ k < n + 1 ∧ n + 1 ≤ k + q.body.argCount) ↔
      (p.kind = .message ∧ n < p.body.argCount) ∨
        ∃ k q, l[k]? = some q ∧ q.kind = .message ∧ k < n ∧ n ≤ k + q.body.argCount := by
    rw [← Nat.or_exists_add_one]
    simp [Nat.add_right_comm _ 1]
  rw [Claimed, Claimed, hsplit, LocalPage.argsAfter]
  by_cases hm : p.kind = .message
  · simp [hm, h hm]
  · simp [hm, Nat.lt_sub_iff_add_lt]

theorem restOk_nil (args : Nat) : RestOk args [] ↔ args = 0 := by
  simp only [RestOk, Claimed]
  constructor
  · rintro ⟨-, h⟩
    simpa using h 0
  · rintro rfl
    simp

theorem restOk_cons (args : Nat) (p : LocalPage) (l : List LocalPage) :
    RestOk args (p :: l) ↔ (0 < args ↔ p.kind = .unformatted) ∧ p.RestKind ∧ RestOk (p.argsAfter args) l := by
  have hplace : (0 < args ↔ p.kind = .unformatted) → p.kind = .message → args = 0 := fun h hm => by
    rw [hm] at h
    simpa using h
  unfold RestOk
  rw [List.forall_mem_cons, ← Nat.and_forall_add_one, claimed_cons_zero]
  simp only [List.getElem?_cons_zero, List.getElem?_cons_succ, Option.some.injEq, exists_eq_left']
  constructor
  · rintro ⟨⟨hp, hl⟩, h0, hs⟩
    exact ⟨h0, hp, hl, fun n => by rw [← claimed_cons_succ (hplace h0), hs n]⟩
  · rintro ⟨h0, hp, hl, hs⟩
    exact ⟨⟨hp, hl⟩, h0, fun n => by rw [claimed_cons_succ (hplace h0), hs n]⟩

/-- The validating machine accepts just the lists whose places are right. -/
theorem validRest_iff (args : Nat) (l : List LocalPage) : validRest args l = true ↔ RestOk args l := by
  induction l generalizing args with
  | nil => simp [validRest, restOk_nil]
  | cons p l ih =>
    rw [restOk_cons, ← ih]
    cases hk : p.kind <;>
      simp [validRest, hk, LocalPage.RestKind, LocalPage.argsAfter, Nat.pos_iff_ne_zero, and_assoc]

/-! ### The list in the stores -/

theorem localList_eq_cons {px : PageExchange} (h : 1 ≤ px.count) :
    px.localList = px.pages[0] :: px.localList.tail := by
  obtain ⟨n, hn⟩ := Nat.exists_eq_add_of_le' h
  rw [PageExchange.localList, hn]
  apply List.ext_getElem?
  intro k
  cases k <;> simp

theorem valid_iff (px : PageExchange) :
    px.valid = true ↔ 1 ≤ px.count ∧ px.pages[0].kind = .base ∧ RestOk 0 px.localList.tail := by
  rcases Nat.eq_zero_or_pos px.count with h0 | h1
  · simp [PageExchange.valid, PageExchange.localList, h0]
  · rw [PageExchange.valid, localList_eq_cons h1]
    simp [h1, validRest_iff, Nat.succ_le_iff]

/-- The entries after entry 0, by their places in the stores. -/
theorem localRest_getElem? {px : PageExchange} {n : Nat} {p : LocalPage} :
    px.localList.tail[n]? = some p ↔ ∃ k : Fin 8, k.val = n + 1 ∧ k.val < px.count ∧ px.pages[k.val] = p := by
  rw [PageExchange.localList, List.getElem?_tail, List.getElem?_take]
  constructor
  · intro h
    split at h
    next hn =>
      rw [Vector.getElem?_toList, Vector.getElem?_eq_some_iff] at h
      obtain ⟨h8, rfl⟩ := h
      exact ⟨⟨n + 1, h8⟩, rfl, hn, rfl⟩
    next => cases h
  · rintro ⟨k, hk, hc, rfl⟩
    rw [← hk, if_pos hc]
    simp

theorem localRest_place {px : PageExchange} {k : Fin 8} (h1 : 1 ≤ k.val) (hk : k.val < px.count) :
    px.localList.tail[k.val - 1]? = some px.pages[k.val] :=
  localRest_getElem?.2 ⟨k, (Nat.sub_add_cancel h1).symm, hk, rfl⟩

/-- An entry of another kind than BASE does not stand at place 0 of a list that begins with a BASE page. -/
theorem place_pos {px : PageExchange} (hb : px.pages[0].kind = .base) {k : Fin 8} {t : PageKind}
    (hk : px.pages[k.val].kind = t) (ht : t ≠ .base) : 1 ≤ k.val := by
  by_contra h0
  have hz : k = 0 := Fin.ext (by simpa using h0)
  subst hz
  exact ht (hk.symm.trans hb)

/-- Settles O42: the validating machine is right by `validRest_iff`, and the places of the rest of the list are those of
the stores after entry 0, which as a BASE page is neither a MESSAGE nor an argument. -/
theorem localPageListValidation : Obligations.LocalPageListValidation := by
  intro px _
  rw [valid_iff]
  refine and_congr_right fun h1 => and_congr_right fun hb => ?_
  have hpos : ∀ {k : Fin 8} {t : PageKind}, px.pages[k.val].kind = t → t ≠ .base → 1 ≤ k.val := place_pos hb
  constructor
  · rintro ⟨hkind, hplace⟩
    have hpage : ∀ k : Fin 8, 1 ≤ k.val → k.val < px.count → px.pages[k.val].RestKind := fun k h hk =>
      hkind _ (List.mem_of_getElem? (localRest_place h hk))
    refine ⟨fun k h hk => ?_, fun k hk hm => ?_, fun k hk hm n hn => ?_, fun j hj hu => ?_⟩
    · obtain ⟨hbase, hnull, -⟩ := hpage k h hk
      exact ⟨hbase, hnull⟩
    · obtain ⟨-, -, hmsg⟩ := hpage k (hpos hm (by decide)) hk
      exact hmsg hm
    · have hk1 := hpos hm (by decide)
      have hclaim : Claimed 0 px.localList.tail (k.val + n) :=
        .inr ⟨_, _, localRest_place hk1 hk, hm, by omega, by change k.val + n ≤ _ + px.pages[k.val].body.b1.toNat; omega⟩
      obtain ⟨p, hp, hu⟩ := (hplace _).1 hclaim
      obtain ⟨j, hj, hjc, rfl⟩ := localRest_getElem?.1 hp
      exact ⟨j, by omega, hjc, hu⟩
    · have hj1 := hpos hu (by decide)
      rcases (hplace _).2 ⟨_, localRest_place hj1 hj, hu⟩ with h | ⟨n, q, hq, hm, hlt, hle⟩
      · exact absurd h (Nat.not_lt_zero _)
      · obtain ⟨k, hk, -, rfl⟩ := localRest_getElem?.1 hq
        refine ⟨k, hm, by omega, ?_⟩
        change _ ≤ n + px.pages[k.val].body.b1.toNat at hle
        omega
  · rintro ⟨hkind, hmsg, hfollowed, hargument⟩
    refine ⟨fun p hp => ?_, fun n => ⟨?_, ?_⟩⟩
    · obtain ⟨n, hn⟩ := List.mem_iff_getElem?.1 hp
      obtain ⟨k, hk, hc, rfl⟩ := localRest_getElem?.1 hn
      obtain ⟨hbase, hnull⟩ := hkind k (by omega) hc
      exact ⟨hbase, hnull, hmsg k hc⟩
    · rintro (h | ⟨m, q, hq, hm, hlt, hle⟩)
      · exact absurd h (Nat.not_lt_zero _)
      · obtain ⟨k, hk, hc, rfl⟩ := localRest_getElem?.1 hq
        change _ ≤ m + px.pages[k.val].body.b1.toNat at hle
        obtain ⟨j, hj, hjc, hu⟩ := hfollowed k hc hm (n - k.val) (by omega)
        exact ⟨_, localRest_getElem?.2 ⟨j, by omega, hjc, rfl⟩, hu⟩
    · rintro ⟨p, hp, hu⟩
      obtain ⟨j, hj, hjc, rfl⟩ := localRest_getElem?.1 hp
      obtain ⟨k, hm, hlt, hle⟩ := hargument j hjc hu
      have hk1 := hpos hm (by decide)
      refine .inr ⟨_, _, localRest_place hk1 (by omega), hm, by omega, ?_⟩
      change _ ≤ _ + px.pages[k.val].body.b1.toNat
      omega

end Sys2Proof.Machine
end

section
/-! ## The PAGE exchange (O33, O35, O36, O37)

The end of a PAGE exchange as its two halves: the first by FirstHalf (Laws/Page.lean), the second by the kind of the
module's page. -/

namespace Sys2Proof.Machine

/-! ### An exchange that ends -/

section
variable {k : Slot} {s : State} {ctx : Context} (hs : (s.entry k).state = .negotiating ctx)
include hs

theorem deliverPage_failed {o : ExchangeOutcome} (ho : o = .silence ∨ o = .garble) :
    deliverPage k o s = enterFailed k .silent s := by
  rcases ho with rfl | rfl <;> simp [deliverPage, context_iff.2 hs]

theorem deliverPage_page (p : Page) (q : Bool) : deliverPage k (.reply (.page p) q) s = pageStep k ctx p s := by
  simp [deliverPage, context_iff.2 hs]

end

theorem exec_page_end {i : Instr} {c : Call} {o : ExchangeOutcome} {s : State} (h : ExchangeEnds i c o s)
    (hk : c.kind = .page) : exec i s = .next (finishExchange (deliverPage c.slot o s)) := by
  rw [exec_of_exchangeEnds h, deliver, hk]

/-- The context on which the module's page is judged: that of the first half, with the step counted (R45, R51). -/
def Context.stepped (a : Context) (steps : Nat) : Context := { a with steps := steps + 1, fresh := false }

/-- A PAGE exchange that ends with a page judges it on what the first half leaves. -/
theorem exec_of_judgePage {i : Instr} {c : Call} {s t : State} {ctx a : Context} {p : Page} {q : Bool}
    {r r1 : NegotiationRecord} (h : ExchangeEnds i c (.reply (.page p) q) s) (hk : c.kind = .page)
    (hs : (s.entry c.slot).state = .negotiating ctx) (hr : (s.entry c.slot).record = some r)
    (hf : FirstHalf s.px p ctx a r r1)
    (ht : judgePage c.slot (a.stepped ctx.steps) p ctx.finalSeen
      (s.setEntry c.slot { s.entry c.slot with record := some r1 }) = t) :
    exec i s = .next (finishExchange t) := by
  rw [exec_page_end h hk, deliverPage_page hs, pageStep_of_firstHalf hf hr, ← ht]
  rfl

/-! ### The module's first page -/

section
variable {k : Slot} {ctx : Context} {p : Page} {final : Bool} {s : State} (hm : ctx.moduleToggle = none)
include hm

theorem pageFault_first (cls : BitVec 4) (hp : p.kind = .base) :
    pageFault cls ctx p = if p.body.cls = cls then none else some .classMismatch := by
  simp [pageFault, hm, hp]

theorem judgePage_first_order (hp : p.kind ≠ .base) : judgePage k ctx p final s = enterFailed k .pageOrder s := by
  simp [judgePage, pageFault, hm, hp]

theorem judgePage_first_mismatch {e : Entry} {cls : BitVec 4} (hp : p.kind = .base) (he : e.cls = some cls)
    (hc : p.body.cls ≠ cls) : judgePage k ctx p final (s.setEntry k e) = enterFailed k .classMismatch (s.setEntry k e) := by
  rw [judgePage, pageFault_first hm _ hp, entry_setEntry_self, he, Option.getD_some, if_neg hc]

theorem judgePage_first {e : Entry} {cls : BitVec 4} (hp : p.kind = .base) (he : e.cls = some cls)
    (hc : p.body.cls = cls) :
    judgePage k ctx p final (s.setEntry k e) =
      endStep k
        { ctx with
          moduleToggle := some p.toggle, ack := some ⟨p.toggle, true⟩, finalSeen := ctx.finalSeen || !p.more }
        final (s.setEntry k { e with basePage := some p.body }) := by
  rw [judgePage, pageFault_first hm _ hp, entry_setEntry_self, if_pos (he ▸ hc)]
  simp [isNewPage, acceptPage, complyGiven, keepPage, State.updEntry, hm, hp, setEntry_setEntry]

end

/-! ### A step that does not complete the exchange -/

/-- A step that leaves the exchange incomplete below the limit stores its context beside what it has written of the
entry. -/
theorem endStep_setEntry {k : Slot} {ctx : Context} {final : Bool} {s : State} (e : Entry)
    (h : ctx.localDone = false ∨ final = false) (hs : ctx.steps < 20) :
    endStep k ctx final (s.setEntry k e) = s.setEntry k { e with state := .negotiating ctx } := by
  rw [endStep_lt (Bool.and_eq_false_iff.2 h) hs, setEntry_setEntry, entry_setEntry_self]

/-- A step with a repeated page that leaves the exchange incomplete below the limit stores what the first half made of
the context and the record. -/
theorem exec_page_repeated {i : Instr} {c : Call} {s : State} {ctx a : Context} {p : Page} {q : Bool}
    {r r1 : NegotiationRecord} (h : ExchangeEnds i c (.reply (.page p) q) s) (hk : c.kind = .page)
    (hs : (s.entry c.slot).state = .negotiating ctx) (hr : (s.entry c.slot).record = some r)
    (hf : FirstHalf s.px p ctx a r r1) (hm : ctx.moduleToggle = some p.toggle)
    (hin : a.localDone = false ∨ ctx.finalSeen = false) (hst : ctx.steps + 1 < 20) :
    exec i s = .next (finishExchange (s.setEntry c.slot
      { s.entry c.slot with record := some r1, state := .negotiating (a.stepped ctx.steps) })) := by
  obtain ⟨-, -, -, htoggle, -⟩ := firstHalf_spec hf
  have hm' : (a.stepped ctx.steps).moduleToggle = some p.toggle := htoggle.trans hm
  exact exec_of_judgePage h hk hs hr hf ((judgePage_repeated hm').trans (endStep_setEntry _ hin hst))

/-- Settles O33: the failures, the first page and a repeat, each with the end of the step. -/
theorem pageExchangeEnd : Obligations.PageExchangeEnd := by
  intro i c s ctx hk hs
  refine ⟨fun o h ho => ?_, fun p q r a r1 h hr hf => ?_⟩
  · rw [exec_page_end h hk, deliverPage_failed hs ho]
  · have hx := fun t => exec_of_judgePage (t := t) h hk hs hr hf
    obtain ⟨-, -, -, htoggle, hfinal, -⟩ := firstHalf_spec hf
    have hm' : ∀ {t}, ctx.moduleToggle = t → (a.stepped ctx.steps).moduleToggle = t := fun h => htoggle.trans h
    refine ⟨fun hm hp => hx _ ?_, fun cls hm hp hc hn => hx _ ?_, fun cls hm hp hc hn hin hst => hx _ ?_,
      fun hm hin hst => ?_, fun hm hin hst => hx _ ?_⟩
    · exact judgePage_first_order (hm' hm) hp
    · exact judgePage_first_mismatch (hm' hm) hp hc hn
    · rw [← hfinal]
      exact (judgePage_first (hm' hm) hp hc hn).trans (endStep_setEntry _ (hfinal ▸ hin) hst)
    · exact exec_page_repeated h hk hs hr hf hm hin hst
    · exact (judgePage_repeated (hm' hm)).trans (endStep_limit (Bool.and_eq_false_iff.2 hin) hst)

/-! ### The acknowledgement (O35) -/

section
variable {px : PageExchange} {ctx : Context} {p : Page} (hv : p.ackValid = true) (ht : p.ackToggle = ctx.localToggle)
include hv ht

theorem ackMatches_of_toggle : ackMatches ctx p = true := by simp [ackMatches, hv, ht]

theorem firstHalf_null (hd : ctx.localDone = true ∨ px.count ≤ ctx.localIndex) (r : NegotiationRecord) :
    FirstHalf px p ctx { ctx with localDone := true, localToggle := !ctx.localToggle } r r :=
  .inr ⟨hv, ht, .inl ⟨hd, rfl, rfl⟩⟩

section
variable {l : LocalPage} (hl : px.pages[ctx.localIndex]? = some l) (hd : ctx.localDone = false)
  (hc : ctx.localIndex < px.count)
include hl hd hc

theorem firstHalf_other (hk : l.kind ≠ .message) (r : NegotiationRecord) :
    FirstHalf px p ctx
      { ctx with
        localIndex := ctx.localIndex + 1, localDone := decide (ctx.localIndex + 1 = px.count)
        localToggle := !ctx.localToggle } r r :=
  .inr ⟨hv, ht, .inr ⟨l, hl, hd, hc, rfl, .inl ⟨hk, rfl⟩⟩⟩

theorem firstHalf_message (h8 : ctx.localIndex < 8) (hk : l.kind = .message) (hq : l.required = false ∨ p.comply = true)
    (r : NegotiationRecord) :
    FirstHalf px p ctx
      { ctx with
        localIndex := ctx.localIndex + 1, localDone := decide (ctx.localIndex + 1 = px.count)
        localToggle := !ctx.localToggle } r ⟨r.dropped, setFlag r.comply ctx.localIndex p.comply⟩ :=
  .inr ⟨hv, ht, .inr ⟨l, hl, hd, hc, rfl, .inr ⟨hk, hq, rfl, setFlag_getLsbD _ _ h8 _⟩⟩⟩

theorem answered_of_message (hk : l.kind = .message) : px.answered ctx p = some l := by
  simp [PageExchange.answered, ackMatches_of_toggle hv ht, PageExchange.offered, hd, hc, hl, hk]

end
end

/-- A required MESSAGE entry that the module declines ends the negotiation, whatever page comes with it (R45). -/
theorem pageStep_declined {k : Slot} {ctx : Context} {p : Page} {s : State} {r : NegotiationRecord} {l : LocalPage}
    (ha : s.px.answered ctx p = some l) (hq : l.required = true) (hp : p.comply = false)
    (hr : (s.entry k).record = some r) :
    pageStep k ctx p s =
      enterFailed k .notComplied
        (s.setEntry k { s.entry k with record := some ⟨r.dropped, setFlag r.comply ctx.localIndex false⟩ }) := by
  have hd : s.px.declined ctx p = true := by simp [PageExchange.declined, ha, hq, hp]
  have hc : s.px.recordComply ctx p r = ⟨r.dropped, setFlag r.comply ctx.localIndex false⟩ := by
    simp [PageExchange.recordComply, ha, hp]
  rw [pageStep, if_pos hd, ← hc]
  simp [State.updEntry, Entry.negotiationRecord, hr]

/-- Settles O35: each acknowledgement is a FirstHalf, but for the one that declines a required entry. -/
theorem pageAcknowledged : Obligations.PageAcknowledged := by
  intro i c s ctx p q r h hk hs hr hv ht
  have same : ∀ m : ModuleState, { s.entry c.slot with record := some r, state := m } = { s.entry c.slot with state := m } :=
    fun m => by rw [← hr]
  refine ⟨fun h8 l hd hc hl => ?_, fun ⟨hm, hfin, hst⟩ hd => ?_⟩
  · have hl' : s.px.pages[ctx.localIndex]? = some l := by rw [Vector.getElem?_eq_getElem h8, hl]
    refine ⟨fun ⟨hm, hfin, hst⟩ hn => ?_, fun ⟨hm, hfin, hst⟩ hmsg hq => ?_, fun hmsg hq hp => ?_⟩
    · refine (exec_page_repeated h hk hs hr (firstHalf_other hv ht hl' hd hc hn r) hm (.inr hfin) hst).trans ?_
      rw [same]
      rfl
    · have hx := exec_page_repeated h hk hs hr (firstHalf_message hv ht hl' hd hc h8 hmsg hq r) hm (.inr hfin) hst
      exact ⟨_, setFlag_getLsbD _ _ h8 _, hx⟩
    · refine ⟨_, setFlag_getLsbD _ _ h8 _, ?_⟩
      rw [exec_page_end h hk, deliverPage_page hs,
        pageStep_declined (answered_of_message hv ht hl' hd hc hmsg) hq hp hr]
  · refine (exec_page_repeated h hk hs hr (firstHalf_null hv ht hd r) hm (.inr hfin) hst).trans ?_
    rw [same]
    rfl

/-! ### A new page after the first (O36) -/

/-- Table 2-4 as one disjunction. -/
theorem outOfOrder_iff (ctx : Context) (p : Page) :
    outOfOrder ctx p = true ↔
      p.kind = .base ∨ (p.kind = .unformatted ∧ ctx.argsLeft = 0) ∨
        ((p.kind = .message ∨ p.kind = .null) ∧ 0 < ctx.argsLeft) ∨ (p.kind = .null ∧ ctx.finalSeen = false) ∨
        ((p.kind = .message ∨ p.kind = .unformatted) ∧ ctx.finalSeen = true) ∨
        (p.kind = .message ∧ (p.body.code = 0 ∨ 4 < p.body.argCount)) ∨
        (p.kind = .message ∧ 0 < p.body.argCount ∧ p.more = false) ∨
        (p.kind = .unformatted ∧ p.more = false ∧ 1 < ctx.argsLeft) := by
  cases hk : p.kind <;> simp [outOfOrder, hk, Nat.pos_iff_ne_zero, or_assoc]

theorem finalSeen_of_inOrder {ctx : Context} {p : Page} (hp : p.kind = .message ∨ p.kind = .unformatted)
    (ho : outOfOrder ctx p = false) : ctx.finalSeen = false := by
  refine Bool.eq_false_iff.2 fun hfin => ?_
  rw [(outOfOrder_iff ctx p).2 (.inr (.inr (.inr (.inr (.inl ⟨hp, hfin⟩)))))] at ho
  cases ho

/-! The comply given to a page that is accepted, and the arguments left after it (R40, R49). -/

section
variable {p : Page} (accept : BitVec 256) (ctx : Context)

theorem accepted_message (hp : p.kind = .message) :
    complyGiven accept ctx p = accept.getLsbD p.body.b0.toNat ∧
      (acceptPage accept ctx p).argsLeft = p.body.b1.toNat := by
  simp [complyGiven, acceptPage, hp, Body.code, Body.argCount]

theorem accepted_null (hp : p.kind = .null) :
    complyGiven accept ctx p = false ∧ (acceptPage accept ctx p).argsLeft = ctx.argsLeft := by
  simp [complyGiven, acceptPage, hp]

theorem accepted_unformatted {ctx : Context} {x : Ack} (hp : p.kind = .unformatted) (hx : ctx.ack = some x) :
    complyGiven accept ctx p = x.comply ∧ (acceptPage accept ctx p).argsLeft = ctx.argsLeft - 1 := by
  simp [complyGiven, acceptPage, hp, hx]

end

theorem isNewPage_of_toggle {ctx : Context} {p : Page} {t : Bool} (hm : ctx.moduleToggle = some t) (hn : p.toggle ≠ t) :
    isNewPage ctx p = true := by
  simpa [isNewPage, hm] using hn.symm

section
variable {k : Slot} {p : Page} {s : State} (r : NegotiationRecord) (b : Bool)

theorem poolFree_setRecord : (s.setEntry k { s.entry k with record := some r }).poolFree = s.poolFree := by
  apply poolFree_setEntry
  rfl

theorem keepPage_pooled {kind : PageKind} (hp : p.kind = kind) (ht : kind = .message ∨ kind = .unformatted)
    (hroom : 0 < s.poolFree) :
    keepPage k p b (s.setEntry k { s.entry k with record := some r }) =
      s.setEntry k
        { s.entry k with record := some r, pages := (s.entry k).pages ++ [⟨kind, p.body, b⟩] } := by
  have hroom' : 0 < (s.setEntry k { s.entry k with record := some r }).poolFree := by
    rwa [poolFree_setRecord]
  rcases ht with rfl | rfl <;> simp [keepPage, hp, hroom', State.updEntry, setEntry_setEntry]

theorem keepPage_dropped (hp : p.kind = .message ∨ p.kind = .unformatted) (hroom : s.poolFree = 0) :
    keepPage k p b (s.setEntry k { s.entry k with record := some r }) =
      s.setEntry k
        { s.entry k with record := some ⟨if r.dropped = 255 then 255 else r.dropped + 1, r.comply⟩ } := by
  have hroom' : (s.setEntry k { s.entry k with record := some r }).poolFree = 0 := by
    rwa [poolFree_setRecord]
  have hdrop : r.drop = ⟨if r.dropped = 255 then 255 else r.dropped + 1, r.comply⟩ := by
    unfold NegotiationRecord.drop
    split
    next h => rw [← h]
    next => rfl
  rcases hp with hp | hp <;>
    simp [keepPage, hp, hroom', State.updEntry, setEntry_setEntry, Entry.negotiationRecord, hdrop]

end

theorem keepPage_null {k : Slot} {p : Page} {s : State} (hp : p.kind = .null) (b : Bool) : keepPage k p b s = s := by
  simp [keepPage, hp]

/-- A new page after the first that is in order, by its comply, the arguments after it and what it leaves in the entry:
below the limit the context is stored with it, and the step that reaches the limit ends the negotiation. -/
theorem exec_page_accepted {i : Instr} {c : Call} {s : State} {ctx a : Context} {p : Page} {q t : Bool}
    {r r1 : NegotiationRecord} (h : ExchangeEnds i c (.reply (.page p) q) s) (hk : c.kind = .page)
    (hs : (s.entry c.slot).state = .negotiating ctx) (hr : (s.entry c.slot).record = some r)
    (hf : FirstHalf s.px p ctx a r r1) (hm : ctx.moduleToggle = some t) (hn : p.toggle ≠ t)
    {comply : Bool} {args : Nat} {kept : Entry} (ho : outOfOrder (a.stepped ctx.steps) p = false)
    (hcomply : complyGiven s.px.accept (a.stepped ctx.steps) p = comply)
    (hargs : (acceptPage s.px.accept (a.stepped ctx.steps) p).argsLeft = args)
    (hkept : keepPage c.slot p comply (s.setEntry c.slot { s.entry c.slot with record := some r1 }) =
      s.setEntry c.slot kept)
    (hin : a.localDone = false ∨ ctx.finalSeen = false) :
    (ctx.steps + 1 < 20 →
      exec i s = .next (finishExchange (s.setEntry c.slot
        { kept with
          state := .negotiating
            { a with
              steps := ctx.steps + 1, fresh := false, moduleToggle := some p.toggle, ack := some ⟨p.toggle, comply⟩
              argsLeft := args, finalSeen := ctx.finalSeen || !p.more } }))) ∧
    (ctx.steps + 1 = 20 →
      exec i s = .next (finishExchange (enterFailed c.slot .stepLimit (s.setEntry c.slot kept)))) := by
  obtain ⟨-, -, -, htoggle, hfinal, -⟩ := firstHalf_spec hf
  have hm' : (a.stepped ctx.steps).moduleToggle = some t := htoggle.trans hm
  have hj := judgePage_accepted (k := c.slot) (finalBefore := ctx.finalSeen)
    (s := s.setEntry c.slot { s.entry c.slot with record := some r1 }) hm' (isNewPage_of_toggle hm' hn) ho
  rw [setEntry_px, hcomply, hkept] at hj
  rw [← hfinal, ← hargs, ← hcomply]
  refine ⟨fun hst => ?_, fun hst => ?_⟩
  · exact exec_of_judgePage h hk hs hr hf (hj.trans (endStep_setEntry _ (hfinal ▸ hin) hst))
  · exact exec_of_judgePage h hk hs hr hf (hj.trans (endStep_limit (Bool.and_eq_false_iff.2 (hfinal ▸ hin)) hst))

/-- Settles O36: Table 2-4 by `outOfOrder_iff`, and each kind of page that is in order by what it leaves in the entry. -/
theorem pageOrderAndAcceptance : Obligations.PageOrderAndAcceptance := by
  intro i c s ctx a p q r r1 t h hk hs hr hf hm hn
  obtain ⟨-, -, -, htoggle, hfinal, hargs, hack⟩ := firstHalf_spec hf
  have hfault := outOfOrder_iff (a.stepped ctx.steps) p
  rw [show (a.stepped ctx.steps).argsLeft = ctx.argsLeft from hargs,
    show (a.stepped ctx.steps).finalSeen = ctx.finalSeen from hfinal] at hfault
  have hord := fun hb => Bool.not_eq_true _ ▸ mt hfault.1 hb
  have took := @exec_page_accepted _ _ _ _ _ _ _ _ _ _ h hk hs hr hf hm hn
  have hin : p.kind = .message ∨ p.kind = .unformatted → outOfOrder (a.stepped ctx.steps) p = false →
      a.localDone = false ∨ ctx.finalSeen = false := fun hp ho =>
    .inr (hfinal.symm.trans (finalSeen_of_inOrder hp ho))
  have hunformatted : ∀ x, p.kind = .unformatted → ctx.ack = some x →
      complyGiven s.px.accept (a.stepped ctx.steps) p = x.comply ∧
        (acceptPage s.px.accept (a.stepped ctx.steps) p).argsLeft = ctx.argsLeft - 1 := fun x hp hx => by
    rw [← hargs]
    exact accepted_unformatted _ hp (hack.trans hx)
  refine ⟨fun hb => ?_, fun hb hp hroom => ?_, fun hb hp hroom => ?_, fun x hb hp hx hroom => ?_,
    fun x hb hp hx hroom => ?_, fun hb hp hd => ?_⟩
  · have hm' : (a.stepped ctx.steps).moduleToggle = some t := htoggle.trans hm
    exact exec_of_judgePage h hk hs hr hf (judgePage_outOfOrder hm' (isNewPage_of_toggle hm' hn) (hfault.2 hb))
  · obtain ⟨hc, ha⟩ := accepted_message s.px.accept (a.stepped ctx.steps) hp
    refine took (hord hb) hc ha ?_ (hin (.inl hp) (hord hb))
    exact keepPage_pooled _ _ hp (.inl rfl) hroom
  · obtain ⟨hc, ha⟩ := accepted_message s.px.accept (a.stepped ctx.steps) hp
    refine took (hord hb) hc ha ?_ (hin (.inl hp) (hord hb))
    exact keepPage_dropped _ _ (.inl hp) hroom
  · obtain ⟨hc, ha⟩ := hunformatted x hp hx
    refine took (hord hb) hc ha ?_ (hin (.inr hp) (hord hb))
    exact keepPage_pooled _ _ hp (.inr rfl) hroom
  · obtain ⟨hc, ha⟩ := hunformatted x hp hx
    refine took (hord hb) hc ha ?_ (hin (.inr hp) (hord hb))
    exact keepPage_dropped _ _ (.inr hp) hroom
  · obtain ⟨hc, ha⟩ := accepted_null s.px.accept (a.stepped ctx.steps) hp
    exact took (hord hb) hc (ha.trans hargs) (keepPage_null hp _) (.inl hd)

/-! ### Resolution (O37) -/

theorem highestProfile_eq_none {mask : Byte} (h : ∀ n, ¬ mask.getLsbD n = true) : highestProfile mask = none :=
  List.find?_eq_none.2 fun p _ => h p.val

theorem highestProfile_eq_some {mask : Byte} {p : Profile} (hp : mask.getLsbD p.val = true)
    (h : ∀ m, p.val < m → ¬ mask.getLsbD m = true) : highestProfile mask = some p := by
  rw [highestProfile, List.find?_eq_some_iff_getElem]
  refine ⟨hp, 7 - p.val, by simp; omega, ?_, fun j hj => ?_⟩
  · ext
    simp
    omega
  · simpa using h (7 - j) (by omega)

section
variable {s : State} {e : Entry} {b : Body} {cls : BitVec 4} (hb : e.basePage = some b) (hc : e.cls = some cls)
include hb hc

theorem candidates_getLsbD (n : Nat) :
    (s.candidates e).getLsbD n = true ↔
      s.px.pages[0].body.b0.getLsbD n = true ∧ b.b0.getLsbD n = true ∧
        (s.px.filter[cls.toNat]'(cls.isLt)).getLsbD n = true := by
  simp [State.candidates, hb, hc, Body.mask, and_assoc]

end

section
variable {s : State} {e : Entry} {b : Body} (hb : e.basePage = some b)
include hb

theorem resolve_reported (hf : b.fault = true) : s.resolve e = .error .moduleReported := by
  simp [State.resolve, hb, hf]

theorem resolve_none (hf : b.fault = false) (hn : ∀ n, ¬ (s.candidates e).getLsbD n = true) :
    s.resolve e = .error .noCommonProfile := by
  simp [State.resolve, hb, hf, highestProfile_eq_none hn]

theorem resolve_some (hf : b.fault = false) {n : Profile} (hn : (s.candidates e).getLsbD n.val = true)
    (hm : ∀ m, n.val < m → ¬ (s.candidates e).getLsbD m = true) : s.resolve e = .ok n := by
  simp [State.resolve, hb, hf, highestProfile_eq_some hn hm]

end

theorem setContext_setEntry (k : Slot) (ctx : Context) (e : Entry) (s : State) :
    setContext k ctx (s.setEntry k e) = s.setEntry k { e with state := .negotiating ctx } := by
  rw [setContext, State.updEntry, entry_setEntry_self, setEntry_setEntry]

/-- A repeated page and a new NULL page in order leave the entry alone, and with them the step ends. -/
theorem judgePage_unstored {k : Slot} {ctx after : Context} {p : Page} {s : State} (hf : ctx.finalSeen = true)
    (h : (ctx.moduleToggle = some p.toggle ∧ after = ctx) ∨
      ∃ t, ctx.moduleToggle = some t ∧ p.toggle ≠ t ∧ p.kind = .null ∧ ctx.argsLeft = 0 ∧
        after = { ctx with moduleToggle := some p.toggle, ack := some ⟨p.toggle, false⟩ }) (final : Bool) :
    judgePage k ctx p final s = endStep k after final s := by
  obtain ⟨hm, rfl⟩ | ⟨t, hm, hn, hp, ha, rfl⟩ := h
  · exact judgePage_repeated hm
  · have ho : outOfOrder ctx p = false := by simp [outOfOrder, hp, ha, hf]
    rw [judgePage_accepted hm (isNewPage_of_toggle hm hn) ho, keepPage_null hp]
    simp [acceptPage, complyGiven, hp, hf]

/-- Settles O37: the step ends with `judgePage_unstored`, and resolution is by the candidate set. -/
theorem profileResolution : Obligations.ProfileResolution := by
  intro i c s ctx a after p q r r1 b cls h hk hs hr hf hd hfin hb hc stepped hafter k e candidate
  obtain ⟨-, -, -, htoggle, hfinal, hargs, -⟩ := firstHalf_spec hf
  have hdone : after.localDone = true := by
    obtain ⟨-, rfl⟩ | ⟨t, -, -, -, -, rfl⟩ := hafter <;> exact hd
  have hx : exec i s = .next (finishExchange (endStep k after true (s.setEntry k e))) := by
    refine exec_of_judgePage h hk hs hr hf ?_
    have hfinal' : (a.stepped ctx.steps).finalSeen = true := hfinal.trans hfin
    rw [hfin]
    rw [← htoggle, ← hargs] at hafter
    exact judgePage_unstored hfinal' hafter true
  have hbase : e.basePage = some b := hb
  have hcand : ∀ n, ((s.setEntry k e).candidates e).getLsbD n = true ↔ candidate n :=
    candidates_getLsbD (s := s.setEntry k e) hbase hc
  rw [endStep_complete hdone, entry_setEntry_self] at hx
  refine ⟨fun hflag => ?_, fun hflag hn => ?_, fun n hflag hn hm => ?_⟩
  · rw [hx, resolve_reported hbase hflag]
  · rw [hx, resolve_none hbase hflag fun n => mt (hcand n).1 (hn n)]
  · rw [hx, resolve_some hbase hflag ((hcand _).2 hn) fun m hlt => mt (hcand m).1 (hm m hlt)]
    exact congrArg (fun t => Host.Outcome.next (finishExchange t)) (setContext_setEntry ..)

end Sys2Proof.Machine
end

section
/-! ## The stores written through WDAT (O14)

A write that is taken, as the area's own write, and the records of LOCALPAGE and STAGING byte by byte. -/

namespace Sys2Proof.Machine

/-- A write of WDAT that its area takes. -/
theorem exec_wdatWrite_taken {value : Byte} {s t : State} (h : s.Running) (ht : writeArea value s = some t) :
    exec (.wdatWrite value) s = .next (stepOffset t) := by
  refine congrArg Host.Outcome.next ((whileRunning_running h).trans ?_)
  rw [writeWdat, ht]
  rfl

/-! ### LOCALPAGE -/

/-- In OFF a byte of a local page entry that its record takes is written (R37). -/
theorem writeArea_localPage {value : Byte} {s : State} {q : LocalPage} (ha : s.win.area = .localPage)
    (hl : s.link.state = .off) (h : s.win.widx.toNat < 8)
    (hq : s.px.pages[s.win.widx.toNat].setByte s.win.offset value = some q) :
    writeArea value s = some { s with px := { s.px with pages := s.px.pages.set s.win.widx.toNat q } } := by
  simp [writeArea, ha, writeLocalPage, hl, h, hq]

theorem setByte_kind (p : LocalPage) (kind : PageKind) :
    p.setByte 0 (kind.code.setWidth 8) = some { p with kind := kind } := by
  cases kind <;> rfl

theorem eq_one_of_le_one {value : Byte} (h : value.toNat ≤ 1) : value = 0 ∨ value = 1 := by
  simp only [← BitVec.toNat_inj]
  change value.toNat = 0 ∨ value.toNat = 1
  omega

theorem setByte_required (p : LocalPage) {value : Byte} (h : value.toNat ≤ 1) :
    p.setByte 5 value = some { p with required := decide (value = 1) } := by
  rcases eq_one_of_le_one h with rfl | rfl <;> rfl

/-! ### ACCEPT -/

theorem setAccept_getLsbD (accept : BitVec 256) {k : Nat} (hk : k < 256) (b : Bool) (code : Nat) (h : code < 256) :
    (setAccept accept k b).getLsbD code = if code = k then b else accept.getLsbD code := by
  rw [setAccept, ← BitVec.twoPow_eq]
  by_cases hc : code = k
  · cases b <;> simp [hc, hk]
  · cases b <;> simp [hc, h]

theorem writeArea_accept {value : Byte} {s : State} (ha : s.win.area = .accept) (ho : s.win.offset < 256)
    (hv : value.toNat ≤ 1) :
    writeArea value s =
      some { s with px := { s.px with accept := setAccept s.px.accept s.win.offset (value == 1) } } := by
  simp [writeArea, ha, writeAccept, ho, hv]

/-! ### CLASSFILTER -/

theorem writeArea_classFilter {value : Byte} {s : State} (ha : s.win.area = .classFilter) (ho : s.win.offset < 16) :
    writeArea value s = some { s with px := { s.px with filter := s.px.filter.set s.win.offset value } } := by
  simp [writeArea, ha, writeFilter, ho]

/-! ### STAGING -/

@[simp] theorem lowByte_append (a b : Byte) : lowByte (a ++ b) = b :=
  BitVec.eq_of_getLsbD_eq fun k hk => by
    rw [lowByte, BitVec.getLsbD_extractLsb', BitVec.getLsbD_append]
    simp [hk]

@[simp] theorem highByte_append (a b : Byte) : highByte (a ++ b) = a :=
  BitVec.eq_of_getLsbD_eq fun k hk => by
    rw [highByte, BitVec.getLsbD_extractLsb', BitVec.getLsbD_append]
    simp [hk]

theorem length_stagingBytes (g : Staging) : g.bytes.length = 30 := by
  simp [Staging.bytes]

/-- Every offset of the staging area takes a byte, which then stands there (R108, Table 10-6). -/
theorem bytes_setByte (g : Staging) (value : Byte) {offset : Nat} (h : offset < 30) :
    ∃ g', g.setByte offset value = some g' ∧ g'.bytes = g.bytes.set offset value := by
  match offset, h with
  | 0, _ | 1, _ | 2, _ | 3, _ => exact ⟨_, rfl, rfl⟩
  | 4, _ | 5, _ => exact ⟨_, rfl, by simp [Staging.bytes]⟩
  | k + 6, h =>
    have hk : k < 24 := by omega
    exact ⟨_, dif_pos hk, by simp [Staging.bytes, Vector.toList_set]⟩

theorem writeArea_staging {value : Byte} {s : State} {g : Staging} (ha : s.win.area = .staging)
    (hg : s.win.staging.setByte s.win.offset value = some g) :
    writeArea value s = some { s with win := { s.win with staging := g } } := by
  simp [writeArea, ha, writeStaging, hg]

/-- Settles O14: each area's own write. -/
theorem wdatWriteStores : Obligations.WdatWriteStores := by
  intro value s h
  refine ⟨fun h8 ha hl p hp => ?_, fun ha ho hv => ?_, fun ho ha => ?_, fun ha ho => ?_⟩
  · subst hp
    have wrote := fun offset q (ho : s.win.offset = offset) hq =>
      exec_wdatWrite_taken h (writeArea_localPage (value := value) (q := q) ha hl h8 (ho ▸ hq))
    refine ⟨fun ho => ⟨?_, ?_, ?_, ?_⟩, fun ho => wrote _ _ ho rfl, fun ho => wrote _ _ ho rfl,
      fun ho => wrote _ _ ho rfl, fun ho => wrote _ _ ho rfl, fun ho hv => wrote _ _ ho (setByte_required _ hv)⟩
    · rintro rfl
      exact wrote _ _ ho (setByte_kind _ .base)
    · rintro rfl
      exact wrote _ _ ho (setByte_kind _ .message)
    · rintro rfl
      exact wrote _ _ ho (setByte_kind _ .unformatted)
    · rintro rfl
      exact wrote _ _ ho (setByte_kind _ .null)
  · exact ⟨_, exec_wdatWrite_taken h (writeArea_accept ha ho hv), setAccept_getLsbD _ ho _⟩
  · exact exec_wdatWrite_taken h (writeArea_classFilter ha ho)
  · obtain ⟨g, hg, hbytes⟩ := bytes_setByte s.win.staging value ho
    refine ⟨g, exec_wdatWrite_taken h (writeArea_staging ha hg), fun k hk => ?_⟩
    · rw [hbytes, List.getD_eq_getElem?_getD, List.getElem?_set, length_stagingBytes]
      by_cases hk' : k = s.win.offset
      · simp [hk', ho]
      · simp [hk', Ne.symm hk', List.getD_eq_getElem?_getD]

end Sys2Proof.Machine
end

section
/-! ## The values after reset (O3) and ENABLE_LINK (O43) -/

namespace Sys2Proof.Machine

/-! ### The reset state -/

theorem entry_reset (i : Slot) : State.reset.entry i = Entry.reset := by
  simp [State.entry, State.reset]

theorem bytes_staging_reset : Staging.reset.bytes = List.replicate 30 0 := by decide

/-- Settles O3: the values of the reset state. -/
theorem resetValues : Obligations.ResetValues := by
  refine ⟨fun i => ?_, ⟨rfl, rfl, rfl, rfl, rfl, rfl, rfl, rfl, rfl, rfl, rfl⟩,
    ⟨rfl, rfl, rfl, rfl, rfl, rfl, rfl, rfl, rfl⟩, ⟨rfl, fun k => ?_, fun code => ?_, fun k => ?_, ?_⟩, ⟨rfl, rfl, rfl⟩,
    ⟨rfl, rfl, fun h => ?_⟩, ⟨rfl, rfl⟩, ⟨rfl, rfl, rfl, rfl, fun k => ?_, rfl, rfl, rfl, fun k => rfl, fun k => ?_⟩, rfl⟩
  · rw [entry_reset]
    exact ⟨rfl, rfl, rfl, rfl, rfl, rfl, rfl, rfl, rfl, rfl, rfl, rfl, rfl, rfl, rfl, rfl⟩
  · exact Vector.getElem_replicate _
  · exact BitVec.getLsbD_zero
  · exact Vector.getElem_replicate _
  · rw [State.poolFree, pagesHeld_eq_zero]
    · rfl
    · intro e he
      rw [Vector.eq_of_mem_replicate he]
      rfl
  · exact Vector.getElem_replicate _
  · exact Vector.getElem_replicate _
  · change Staging.reset.bytes.getD k 0 = 0
    rw [bytes_staging_reset, List.getD_eq_getElem?_getD, List.getElem?_replicate]
    split <;> rfl

/-! ### ENABLE_LINK -/

/-- The state with the level of LFLTN recorded, on which ENABLE_LINK acts, and the code and result it leaves. -/
theorem exec_enableLink {s t : State} {r : ActionResult} (h : s.Running) (l : Level)
    (ht : enableLink l (recordLfltn l s) = (t, r)) : exec (.enableLink l) s = .next (t.acted 0x01 r) := by
  refine congrArg Host.Outcome.next ((whileRunning_running h).trans ?_)
  rw [runAction, ht]
  rfl

theorem enableLink_of_on {s : State} (h : s.link.state ≠ .off) (l : Level) : enableLink l s = (s, .wrongState) := by
  unfold enableLink
  split
  next ho => exact absurd ho h
  all_goals rfl

section
variable {s : State} (ho : s.link.state = .off)
include ho

theorem enableLink_of_invalid (hv : s.px.valid = false) (l : Level) : enableLink l s = (s, .badLocalPages) := by
  simp [enableLink, ho, hv]

theorem enableLink_high (hv : s.px.valid = true) : enableLink .high s = (enterIdle s, .done) := by
  simp [enableLink, ho, hv]

theorem enableLink_low (hv : s.px.valid = true) : enableLink .low s = (takeFault s, .done) := by
  simp [enableLink, ho, hv]

theorem takeFault_of_off :
    takeFault s =
      post .lineFault 0 0
        { s with
          link :=
            { s.link with
              state := .fault, activity := .quiet, attempt := 0, quiet := 0, window := none, heldBroadcast := false } } := by
  rw [takeFault, ho]
  rfl

end

/-- Settles O43: the branches of enableLink. -/
theorem Settled.enableLink : Obligations.EnableLink := by
  intro l s h s1
  have hx := fun t r => exec_enableLink (t := t) (r := r) h l
  have hlink : (recordLfltn l s).link = s.link := rfl
  rw [← hlink]
  refine ⟨fun ho => ?_, fun ho hv => ?_, fun ho hv hl => ?_, fun ho hv hl => ?_⟩
  · exact hx _ _ (enableLink_of_on ho l)
  · exact hx _ _ (enableLink_of_invalid ho hv l)
  · subst hl
    exact hx _ _ (enableLink_high ho hv)
  · subst hl
    rw [hx _ _ (enableLink_low ho hv), takeFault_of_off ho]
    rfl

end Sys2Proof.Machine
end

section
/-! ## The plain reads and writes of the registers (O15) -/

namespace Sys2Proof.Machine

/-! ### Writes -/

theorem exec_registerWrite {s : State} (h : s.Running) (address : BitVec 6) (value : Byte) :
    exec (.registerWrite address value) s = .next (writeRegister address value s) :=
  congrArg Host.Outcome.next (whileRunning_running h)

theorem writeRegister_arg (k : Fin 4) (value : Byte) (s : State) :
    writeRegister (BitVec.ofNat 6 (6 + k.val)) value s = writeArg k value s := by
  match k with
  | 0 | 1 | 2 | 3 => rfl

/-- A read-only register and an unused address ignore a write (R173). -/
theorem writeRegister_ignored {address : BitVec 6} (h : address = 0x03 ∨ address = 0x05 ∨ 0x0E ≤ address.toNat)
    (value : Byte) (s : State) : writeRegister address value s = s := by
  rcases h with rfl | rfl | h
  · rfl
  · rfl
  · unfold writeRegister
    split
    case h_13 => rfl
    all_goals omega

theorem writeRegister_lsta {value : Byte} (h : value.msb = false) (s : State) : writeRegister 0x01 value s = s := by
  change (if value.msb then clearRefused s else s) = s
  rw [h]
  rfl

/-! ### Reads -/

/-- While RESETN is high a read is that of the same state with the level written out. -/
theorem readRegister_running {s : State} (h : s.Running) {address : BitVec 6} {b : Byte}
    (hb : State.readRegister { s with pins := { s.pins with resetn := .high } } address = b) :
    s.readRegister address = b := by
  rwa [← h] at hb

theorem readRegister_low {s : State} (h : s.pins.resetn = .low) (address : BitVec 6) : s.readRegister address = 0 := by
  unfold State.readRegister
  rw [h]

theorem readRegister_unused {s : State} (h : s.Running) {address : BitVec 6} (ha : 0x16 ≤ address.toNat) :
    s.readRegister address = 0 := by
  apply readRegister_running h
  unfold State.readRegister
  dsimp only
  split
  case h_23 => rfl
  all_goals omega

theorem readRegister_arg {s : State} (h : s.Running) (k : Fin 4) :
    s.readRegister (BitVec.ofNat 6 (6 + k.val)) = s.win.args[k.val] := by
  match k with
  | 0 | 1 | 2 | 3 => exact readRegister_running h rfl

theorem oldestOpen_of_none {s : State} (h : ∀ d ∈ s.mu.queue, d.decision ≠ none) : s.oldestOpen = 0xFF := by
  have hf : (s.mu.queue.find? fun d => d.decision.isNone) = none := by simpa using h
  rw [State.oldestOpen, hf]

theorem oldestOpen_of_first {s : State} {before after : List Deferred} {d : Deferred}
    (hq : s.mu.queue = before ++ d :: after) (hb : ∀ x ∈ before, x.decision ≠ none) (hd : d.decision = none) :
    s.oldestOpen = 0#1 ++ s.mu.handles[d.handle.val].generation ++ BitVec.ofNat 3 d.handle.val := by
  have hf : (s.mu.queue.find? fun d => d.decision.isNone) = some d := by
    rw [hq, List.find?_append, List.find?_eq_none.2 (by simpa using hb)]
    simp [hd]
  rw [State.oldestOpen, hf]

/-- The table as the list of the slots' entries. -/
theorem toList_table (s : State) : s.table.toList = (List.finRange 30).map s.entry :=
  List.ext_getElem (by simp) fun n h1 h2 => by simp [State.entry]

theorem poolFree_eq (s : State) :
    s.poolFree = 96 - ((List.finRange 30).map fun i => (s.entry i).pages.length).sum := by
  rw [State.poolFree, State.pagesHeld, toList_table, List.map_map]
  rfl

theorem exec_mscountLowRead {s : State} (h : s.Running) :
    exec .mscountLowRead s =
      .next (driveData (lowByte s.sched.mscount)
        { s with sched := { s.sched with holding := highByte s.sched.mscount } }) := by
  simp [exec, execMscountLowRead, h]

/-- Settles O15: the registers one by one. -/
theorem mscountReadAndPlainWrites : Obligations.MscountReadAndPlainWrites := by
  refine ⟨fun s h => ⟨?_, readRegister_running h rfl, readRegister_running h rfl⟩,
    ⟨fun k value s h => ?_, fun address value s h ha => ?_, fun value s h hv => ?_,
      fun address s h ha => readRegister_unused h ha⟩,
    fun s h => ⟨readRegister_running h rfl, readRegister_running h ?_, readRegister_arg h, readRegister_running h ?_,
      readRegister_running h rfl, readRegister_running h rfl, readRegister_running h rfl, readRegister_running h rfl,
      readRegister_running h rfl, readRegister_running h rfl, fun hd => ?_, fun before d after hq hb hd => ?_, ?_⟩,
    fun address s h => readRegister_low h address⟩
  · rw [exec_mscountLowRead h]
    rfl
  · rw [exec_registerWrite h, writeRegister_arg]
    rfl
  · rw [exec_registerWrite h, writeRegister_ignored ha]
  · rw [exec_registerWrite h, writeRegister_lsta hv]
  · change s.win.ares.code = _
    cases s.win.ares <;> rfl
  · change s.win.area.code = _
    cases s.win.area <;> rfl
  · exact (readRegister_running h rfl).trans (oldestOpen_of_none hd)
  · exact (readRegister_running h rfl).trans (oldestOpen_of_first hq hb hd)
  · exact (readRegister_running h rfl).trans (congrArg (BitVec.ofNat 8) (poolFree_eq s))

end Sys2Proof.Machine
end

section
/-! ## The choice among the higher classes (O46)

The first class with work by the classes above it, and the content of a PAGE call. -/

namespace Sys2Proof.Machine

/-! ### The classes in order (R91) -/

theorem releaseWork_eq_none {s : State} (h : ∀ i, (s.entry i).releaseOwed = false) : s.releaseWork = none := by
  rw [State.releaseWork, find_allSlots_eq_none.2 h]
  rfl

theorem verdictWork_eq_none {s : State} (h : ∀ i ∈ s.sched.owed, (s.entry i).active? = none) : s.verdictWork = none := by
  rw [State.verdictWork, List.find?_eq_none.2]
  · rfl
  · intro i hi
    simp [Entry.isActive, h i hi]

theorem negotiationWork_eq_none {s : State} (h : ∀ i, (s.entry i).context? = none) : s.negotiationWork = none := by
  rw [State.negotiationWork, find_slotsFrom_eq_none.2]
  · rfl
  · intro i
    simp [Entry.isNegotiating, h i]

section
variable {s : State} {k : Slot}

theorem nextWork_release (hk : (s.entry k).releaseOwed = true) (hj : ∀ j, j < k → (s.entry j).releaseOwed = false) :
    s.nextWork = some (.release k) := by
  have hw : s.releaseWork = some (.release k) := by
    rw [State.releaseWork, find_allSlots_eq_some hk hj]
    rfl
  simp [State.nextWork, hw]

variable (hr : ∀ i, (s.entry i).releaseOwed = false)
include hr

theorem nextWork_verdict {before after : List Slot} (ho : s.sched.owed = before ++ k :: after)
    (hb : ∀ j ∈ before, (s.entry j).active? = none) (hk : (s.entry k).active?.isSome = true) :
    s.nextWork = some (.verdict k) := by
  have hw : s.verdictWork = some (.verdict k) := by
    rw [State.verdictWork, ho, List.find?_append, List.find?_eq_none.2 (by simpa [Entry.isActive] using hb)]
    simp [Entry.isActive, hk]
  simp [State.nextWork, releaseWork_eq_none hr, hw]

variable (hv : ∀ i ∈ s.sched.owed, (s.entry i).active? = none)
include hv

theorem nextWork_negotiation {n : Slot} {ctx : Context} (hm : ∀ m, m < n → (s.entry (s.sched.negPtr + m)).context? = none)
    (hn : (s.entry (s.sched.negPtr + n)).context? = some ctx) :
    s.nextWork = some (.negotiation (s.sched.negPtr + n)) := by
  have hw : s.negotiationWork = some (.negotiation (s.sched.negPtr + n)) := by
    rw [State.negotiationWork, find_slotsFrom_eq_some (n := n)]
    · rfl
    · simp [Entry.isNegotiating, hn]
    · intro m hmn
      simp [Entry.isNegotiating, hm m hmn]
  simp [State.nextWork, releaseWork_eq_none hr, verdictWork_eq_none hv, hw]

theorem nextWork_overdue (hg : ∀ i, (s.entry i).context? = none) (hk : (s.entry k).standingIs .overdue = true)
    (hj : ∀ j, j < k → (s.entry j).standingIs .overdue = false) : s.nextWork = some (.overduePoll k) := by
  have hw : s.overdueWork = some (.overduePoll k) := by
    rw [State.overdueWork, find_allSlots_eq_some hk hj]
    rfl
  simp [State.nextWork, releaseWork_eq_none hr, verdictWork_eq_none hv, negotiationWork_eq_none hg, hw]

end

/-! ### The calls -/

theorem chooseCall_of_not_idle {s : State} (h : s.link.state ≠ .idle) : chooseCall s = s := by
  unfold chooseCall
  split
  next hi => exact absurd hi h
  all_goals rfl

theorem verdictCall_of_owed {i : Slot} {e : Entry} {v : OwedVerdict} (h : e.verdictOwed = some v) :
    verdictCall i e =
      callTo .verdict .verdict i
        [0#4 ++ v.verdict.number, if v.verdict.code = .accept then 1 else 2, v.verdict.reason] := by
  have hc : v.verdict.code.code = if v.verdict.code = .accept then 1 else 2 := by
    cases v.verdict.code <;> rfl
  rw [verdictCall, h, ← hc, ← setWidth_nibble]

theorem takeWork_negotiation {s : State} {i : Slot} {ctx : Context} (h : (s.entry i).context? = some ctx) :
    takeWork (.negotiation i) s =
      handIn (negotiationCall i s.px ctx) { s with sched := { s.sched with negPtr := i + 1 } } := by
  simp only [takeWork, h]
  rfl

/-- The control byte of a PAGE call by what the context has to deliver (R43, Table 10-3). -/
def Context.pageControl (ctx : Context) (more : Bool) (kind : BitVec 2) : Byte :=
  match ctx.ack with
  | none => BitVec.ofBool ctx.fresh ++ 0#3 ++ BitVec.ofBool ctx.localToggle ++ BitVec.ofBool more ++ kind
  | some a =>
    BitVec.ofBool ctx.fresh ++ BitVec.ofBool a.comply ++ BitVec.ofBool a.toggle ++ 1#1 ++
      BitVec.ofBool ctx.localToggle ++ BitVec.ofBool more ++ kind

/-- The control byte of a page built for a context: with no acknowledgement to deliver its three ack fields are 0. -/
theorem control_eq_pageControl (ctx : Context) (kind : PageKind) (more : Bool) (body : Body) :
    Page.control
        { kind := kind, more := more, toggle := ctx.localToggle, ackValid := ctx.ack.isSome
          ackToggle := (ctx.ack.getD ⟨false, false⟩).toggle, comply := (ctx.ack.getD ⟨false, false⟩).comply
          fresh := ctx.fresh, body := body } =
      ctx.pageControl more kind.code := by
  unfold Page.control Context.pageControl
  cases ctx.ack with
  | some a => rfl
  | none =>
    have hack : ∀ f : Bool, BitVec.ofBool f ++ BitVec.ofBool false ++ BitVec.ofBool false ++ BitVec.ofBool false =
        BitVec.ofBool f ++ 0#3 := by decide
    exact congrArg (fun x : BitVec 4 => x ++ BitVec.ofBool ctx.localToggle ++ BitVec.ofBool more ++ kind.code)
      (hack ctx.fresh)

theorem buildPage_null {px : PageExchange} {ctx : Context} (h : ctx.localDone = true ∨ px.count ≤ ctx.localIndex) :
    (px.buildPage ctx).bytes = [ctx.pageControl false 3, 0, 0, 0, 0] := by
  have ho : px.offered ctx = none := by
    rw [PageExchange.offered, if_neg]
    rintro ⟨hd, hc⟩
    rcases h with h | h
    · rw [hd] at h
      cases h
    · omega
  rw [PageExchange.buildPage, ho]
  exact congrArg (· :: [0, 0, 0, 0]) (control_eq_pageControl ctx .null false ⟨0, 0, 0, 0⟩)

theorem buildPage_entry {px : PageExchange} {ctx : Context} {l : LocalPage} (h : ctx.localIndex < 8)
    (hd : ctx.localDone = false) (hc : ctx.localIndex < px.count) (hl : px.pages[ctx.localIndex] = l) :
    (px.buildPage ctx).bytes =
      ctx.pageControl (decide (ctx.localIndex + 1 ≠ px.count)) l.kind.code :: (sentBody l.kind l.body).bytes := by
  have ho : px.offered ctx = some l := by
    rw [PageExchange.offered, if_pos ⟨hd, hc⟩, Vector.getElem?_eq_getElem h, hl]
  have hmore : (ctx.localIndex + 1 != px.count) = decide (ctx.localIndex + 1 ≠ px.count) := by
    simp [bne, beq_eq_decide]
  rw [PageExchange.buildPage, ho, ← hmore]
  exact congrArg (· :: (sentBody l.kind l.body).bytes) (control_eq_pageControl ctx l.kind _ (sentBody l.kind l.body))

/-- A call of the negotiation class handed in at a choice (R94). -/
theorem exec_callChoice_negotiation {s : State} (h : s.Running) (hi : s.link.state = .idle)
    (hp : s.link.stopPending = false) {i : Slot} {ctx : Context} (hw : s.nextWork = some (.negotiation i))
    (hn : (s.entry i).context? = some ctx) {kind : CallKind} {payload : List Byte}
    (hc : negotiationCall i s.px ctx = callTo .negotiation kind i payload) :
    exec .callChoice s = .next
      { s with
        sched := { s.sched with negPtr := i + 1 }
        link :=
          { s.link with
            state := .sending, activity := .transmitting, attempt := 1, window := none
            current := some (callTo .negotiation kind i payload) } } := by
  rw [exec_callChoice h, chooseCall_of_some hi hw, takeWork_negotiation hn, hc]
  exact congrArg Host.Outcome.next (handIn_eq (by exact hp) _)

theorem negotiationCall_exchange {px : PageExchange} {ctx : Context} (h : ctx.phase = .exchange) (i : Slot) :
    negotiationCall i px ctx = callTo .negotiation .page i (px.buildPage ctx).bytes := by
  rw [negotiationCall, h]

theorem negotiationCall_settle {px : PageExchange} {ctx : Context} {p : Profile} (h : ctx.phase = .settle p) (i : Slot) :
    negotiationCall i px ctx = callTo .negotiation .settle i [BitVec.ofNat 8 p.val] := by
  rw [negotiationCall, h]
  rfl

/-- Settles O46: the class that has work, and for the negotiation class the page of the call. -/
theorem callChoiceHigherClasses : Obligations.CallChoiceHigherClasses := by
  intro s h handed noRelease noVerdict noNegotiation
  refine ⟨fun hi => ?_, fun hi hp => ⟨fun k hk hj => ?_, fun before k after v hr ho hb hk hv => ?_,
    fun n ctx hr hv hm hn => ?_, fun k hr hv hg hk hj => ?_⟩⟩
  · rw [exec_callChoice h, chooseCall_of_not_idle hi]
  · rw [exec_callChoice h, chooseCall_of_some hi (nextWork_release hk hj)]
    exact congrArg Host.Outcome.next (handIn_eq hp _)
  · rw [exec_callChoice h, chooseCall_of_some hi (nextWork_verdict hr ho hb hk), takeWork, verdictCall_of_owed hv]
    exact congrArg Host.Outcome.next (handIn_eq hp _)
  · have hx := fun kind payload => exec_callChoice_negotiation h hi hp (nextWork_negotiation hr hv hm hn) hn
      (kind := kind) (payload := payload)
    refine ⟨fun hphase => ⟨fun hd => ?_, fun h8 l hd hc hl => ?_⟩, fun p hphase => hx _ _ (negotiationCall_settle hphase _)⟩
    · exact hx _ _ ((negotiationCall_exchange hphase _).trans (congrArg _ (buildPage_null hd)))
    · have hpage := (negotiationCall_exchange (px := s.px) hphase (s.sched.negPtr + n)).trans
        (congrArg _ (buildPage_entry h8 hd hc hl))
      refine ⟨fun hk => ?_, fun hk => ?_, fun hk => ?_, fun hk => ?_⟩ <;>
        (rw [hk] at hpage; exact hx _ _ hpage)
  · rw [exec_callChoice h, chooseCall_of_some hi (nextWork_overdue hr hv hg hk hj)]
    exact congrArg Host.Outcome.next (handIn_eq hp _)

end Sys2Proof.Machine
end

section
/-! ## The link engine (O60) and the invariant after reset (O54)

Most operations leave the link engine alone; those of the engine itself keep Table 3-1 by the lemmas on its moves. -/

namespace Sys2Proof.Machine

/-! ### The actions that leave the engine alone -/

theorem submit_link (s : State) : (submit s).1.link = s.link := by
  unfold submit
  split <;> simp

theorem cancel_link (s : State) : (cancel s).1.link = s.link := by
  unfold cancel cancelFound
  split <;> simp

theorem popCompletion_link (s : State) : (popCompletion s).1.link = s.link := by
  unfold popCompletion
  split <;> simp

theorem verdict_link (s : State) : (verdict s).1.link = s.link := by
  unfold verdict judgeVerdict
  repeat' split
  all_goals simp

theorem popNotice_link (s : State) : (popNotice s).1.link = s.link := by
  unfold popNotice
  repeat' split
  all_goals rfl

theorem detachSlot_link (i : Slot) (s : State) : (detachSlot i s).1.link = s.link := by
  unfold detachSlot
  split <;> simp

theorem releaseSlot_link (i : Slot) (s : State) : (releaseSlot i s).1.link = s.link := by
  unfold releaseSlot
  split <;> simp

theorem renegotiateSlot_link (i : Slot) (s : State) : (renegotiateSlot i s).1.link = s.link := by
  unfold renegotiateSlot
  split <;> simp

/-! ### The writes of the engine's configuration -/

/-- A write of WDAT reaches two fields of the engine, its reply window and its retry limit (Table 8-3). -/
theorem writeArea_link {v : Byte} {s t : State} (ht : writeArea v s = some t) :
    t.link = s.link ∨ t.link = { s.link with replyWindow := v } ∨
      (v.toNat ≤ 7 ∧ t.link = { s.link with retryLimit := v }) := by
  unfold writeArea at ht
  split at ht
  · left
    unfold writeModule at ht
    split at ht
    · cases ht
    · dsimp only at ht
      split at ht
      · obtain ⟨-, ⟨⟩⟩ := Option.ite_none_right_eq_some.1 ht
        rfl
      · obtain ⟨-, ⟨⟩⟩ := Option.ite_none_left_eq_some.1 ht
        rfl
      · cases ht
  · left
    unfold writeLocalPage at ht
    split at ht
    · obtain ⟨p, -, rfl⟩ := Option.map_eq_some_iff.1 ht
      rfl
    · cases ht
  · obtain ⟨-, ⟨⟩⟩ := Option.ite_none_right_eq_some.1 ht
    exact Or.inl rfl
  · left
    unfold writeFilter at ht
    split at ht
    · cases ht
      rfl
    · cases ht
  · obtain ⟨g, -, rfl⟩ := Option.map_eq_some_iff.1 ht
    exact Or.inl rfl
  · unfold writeParam at ht
    split at ht
    case h_7 => cases ht
    all_goals obtain ⟨hv, ⟨⟩⟩ := Option.ite_none_right_eq_some.1 ht
    · exact Or.inr (Or.inl rfl)
    · exact Or.inr (Or.inr ⟨hv, rfl⟩)
    all_goals exact Or.inl rfl
  all_goals cases ht

theorem writeArea_linkOk {s t : State} (v : Byte) (h : LinkOk s) (ht : writeArea v s = some t) : LinkOk t := by
  obtain ⟨hr, hq, hk⟩ := h
  rcases writeArea_link ht with hl | hl | ⟨hv, hl⟩
  · exact linkOk_of_link hl hr hq hk
  · exact linkOk_of_link hl hr hq hk
  · exact linkOk_of_link hl hv hq hk

theorem writeRate_linkOk (c : BitVec 2) {s : State} (h : LinkOk s) : LinkOk (writeRate c s) := by
  unfold writeRate
  repeat' split
  all_goals exact h

/-! ### The resets -/

/-- An engine in OFF with nothing in hand. -/
theorem linkOk_of_off {s : State} {l : LinkEngine} (hr : l.retryLimit.toNat ≤ 7)
    (h : s.link = { LinkEngine.reset with rate := l.rate, replyWindow := l.replyWindow, retryLimit := l.retryLimit }) :
    LinkOk s :=
  linkOk_of_link h hr (Nat.zero_le _) ⟨rfl, rfl, rfl, rfl, rfl⟩

theorem pinReset_linkOk (s : State) : LinkOk (pinReset s) :=
  linkOk_of_off (l := LinkEngine.reset) (by decide) rfl

theorem kept_linkOk : Kept LinkOk where
  pending _ h := h
  pins _ h := h
  win _ _ h := h
  holding _ h := h
  enableLink l := enableLink_linkOk l
  disableLink := disableLink_linkOk
  restartLink := restartLink_linkOk
  submit := linkOk_congr (submit_link _)
  cancel := linkOk_congr (cancel_link _)
  popCompletion := linkOk_congr (popCompletion_link _)
  verdict := linkOk_congr (verdict_link _)
  popNotice := linkOk_congr (popNotice_link _)
  detachSlot i := linkOk_congr (detachSlot_link i _)
  releaseSlot i := linkOk_congr (releaseSlot_link i _)
  renegotiateSlot i := linkOk_congr (renegotiateSlot_link i _)
  softReset h := linkOk_of_off h.1 rfl
  pinReset _ := pinReset_linkOk _
  writeRate c := writeRate_linkOk c
  writeArea v := writeArea_linkOk v
  lineFault c := lineFault_linkOk c
  lineRestored := lineRestored_linkOk
  quietTimeRestart c := quietTimeRestart_linkOk c
  msTick l r h := ⟨by rw [msTick_link_retryLimit]; exact h.1, linkTick_ok l r h.2.1 h.2.2⟩
  updActive _ _ _ := linkOk_congr rfl
  expireCommands := linkOk_congr (expireCommands_link _)
  timeOutAll := linkOk_congr (timeOutAll_link _)
  chooseCall := chooseCall_linkOk
  callSent := callSent_linkOk
  replyStartBit := replyStartBit_linkOk
  retryGapEnd := retryGapEnd_linkOk
  endAttempt o hs h := endAttempt_linkOk o h (Or.inr hs)
  broadcastEnd := broadcastEnd_linkOk

/-- Settles O60: the link engine is kept by every operation, so by every step. -/
theorem stepKeepsLinkOk : Obligations.StepKeepsLinkOk := fun _ _ h hs => kept_linkOk.step h hs

/-! ### The reset state -/

theorem commandsOk_reset : CommandsOk State.reset := by
  have ho : State.reset.outstandingCount = 0 := outstandingCount_of_vacant fun j => by rw [entry_reset]; rfl
  refine ⟨Nat.zero_le _, ?_⟩
  rw [State.reservation, ho]
  exact Nat.zero_le _

theorem deferredOk_reset : DeferredOk State.reset :=
  ⟨List.nodup_nil, List.nodup_nil, fun _ _ => rfl, fun _ hd => absurd hd List.not_mem_nil⟩

/-- Settles O54: each part of the invariant at reset; the table and the engine are those a pin reset leaves. -/
theorem invAtReset : Obligations.InvAtReset :=
  ⟨⟨Nat.zero_le _, Nat.zero_le _, fun h => absurd h (Nat.lt_irrefl 0)⟩, commandsOk_reset, configOk_reset,
    tableOk_congr rfl rfl (pinReset_tableOk State.reset), deferredOk_reset,
    linkOk_congr rfl (pinReset_linkOk State.reset)⟩

end Sys2Proof.Machine
end

section
/-! ## LCTL and LSTA (O9), DISABLE_LINK (O44) -/

namespace Sys2Proof.Machine

/-! ### LCTL and LSTA -/

theorem exec_rateCodeWrite {s : State} (h : s.Running) (low : BitVec 7) :
    exec (.rateCodeWrite low) s = .next (writeRate (low.extractLsb' 0 2) s) :=
  congrArg Host.Outcome.next (whileRunning_running h)

theorem writeRate_invalid (s : State) : writeRate 3#2 s = refuseAccess s := rfl

theorem writeRate_held {code : BitVec 2} {s : State} (hc : code ≠ 3) (h : code = s.link.rate) :
    writeRate code s = s := by
  rw [writeRate, if_neg hc, if_pos h]

section
variable {code : BitVec 2} {s : State} (hc : code ≠ 3) (hn : code ≠ s.link.rate)
include hc hn

theorem writeRate_off (ho : s.link.state = .off) :
    writeRate code s = { s with link := { s.link with rate := code } } := by
  rw [writeRate, if_neg hc, if_neg hn, ho]
  rfl

theorem writeRate_on (ho : s.link.state ≠ .off) : writeRate code s = refuseAccess s := by
  rw [writeRate, if_neg hc, if_neg hn]
  split
  next h => exact absurd h ho
  all_goals rfl

end

theorem setWidth_rate (rate : BitVec 2) : rate.setWidth 8 = 0#6 ++ rate := by revert rate; decide

/-- Settles O9: the branches of writeRate, the clearing of the flag, and the two reads. -/
theorem lctlAndLsta : Obligations.LctlAndLsta := by
  refine ⟨fun low s h hc => ?_, fun low s h hc hr => ?_, fun low s h hc hr ho => ?_, fun low s h hc hr ho => ?_,
    fun low s h => ?_, fun s h => ⟨?_, readRegister_running h ?_⟩⟩
  · rw [exec_rateCodeWrite h, hc, writeRate_invalid]
    rfl
  · rw [exec_rateCodeWrite h, writeRate_held hc hr]
  · rw [exec_rateCodeWrite h, writeRate_off hc hr ho]
  · rw [exec_rateCodeWrite h, writeRate_on hc hr ho]
    rfl
  · exact congrArg Host.Outcome.next (whileRunning_running h)
  · exact (readRegister_running h rfl).trans (setWidth_rate _)
  · change BitVec.ofBool s.win.refused ++ 0#4 ++ s.link.state.code = _
    cases s.link.state <;> rfl

/-! ### DISABLE_LINK -/

theorem exec_disableLink {s : State} (h : s.Running) :
    exec .disableLink s = .next ((disableLink s).1.acted 0x02 (disableLink s).2) :=
  congrArg Host.Outcome.next (whileRunning_running h)

/-- The engine with stop pending set, in the state that shows it. -/
def stopIn (shown : LinkState) (s : State) : State :=
  { s with link := { s.link with state := shown, stopPending := true } }

theorem stopIn_of_state {s : State} {shown : LinkState} (h : s.link.state = shown) :
    s.setLink { s.link with stopPending := true } = stopIn shown s := by
  subst h
  rfl

theorem disableLink_off {s : State} (h : s.link.state = .off) : disableLink s = (s, .linkOff) := by
  simp [Machine.disableLink, h]

theorem disableLink_idle {s : State} (h : s.link.state = .idle) : disableLink s = (enterOff s, .done) := by
  simp [Machine.disableLink, h]

/-- In the phases of an exchange the stop shows as STOPPING. -/
theorem disableLink_exchange {s : State}
    (h : s.link.state = .sending ∨ s.link.state = .waiting ∨ s.link.state = .receiving) :
    disableLink s = (stopIn .stopping s, .done) := by
  rcases h with h | h | h <;> simp [Machine.disableLink, h, stopIn, State.setLink]

theorem disableLink_stopping {s : State} (h : s.link.state = .stopping) : disableLink s = (s, .done) := by
  simp [Machine.disableLink, h]

theorem disableLink_broadcasting {s : State} (h : s.link.state = .broadcasting) :
    disableLink s = (stopIn .broadcasting s, .done) := by
  rw [← stopIn_of_state h]
  simp [Machine.disableLink, h]

/-- What the engine holds in FAULT for the time after it (R79, R80). -/
def LinkEngine.Holds (l : LinkEngine) : Prop :=
  l.current ≠ none ∨ l.heldBroadcast = true ∨ l.restartPending = true

theorem holds_iff (l : LinkEngine) :
    (l.current.isSome || l.heldBroadcast || l.restartPending) = true ↔ l.Holds := by
  simp [LinkEngine.Holds, Option.isSome_iff_ne_none, or_assoc]

theorem disableLink_fault_held {s : State} (h : s.link.state = .fault) (hh : s.link.Holds) :
    disableLink s = (stopIn .fault s, .done) := by
  rw [← stopIn_of_state h, Machine.disableLink, h]
  exact if_pos ((holds_iff _).2 hh)

theorem disableLink_fault_empty {s : State} (h : s.link.state = .fault) (hh : ¬ s.link.Holds) :
    disableLink s = (enterOff s, .done) := by
  rw [Machine.disableLink, h]
  exact if_neg (mt (holds_iff _).1 hh)

/-- Settles O44: the branches of disableLink. -/
theorem Settled.disableLink : Obligations.DisableLink := by
  intro s h off stopping held
  have hx : ∀ {t r}, Machine.disableLink s = (t, r) → exec .disableLink s = .next (t.acted 0x02 r) := by
    intro t r ht
    rw [exec_disableLink h, ht]
  exact ⟨fun hl => hx (disableLink_off hl), fun hl => hx (disableLink_idle hl), fun hl => hx (disableLink_exchange hl),
    fun hl => hx (disableLink_stopping hl), fun hl => hx (disableLink_broadcasting hl),
    fun hl hh => hx (disableLink_fault_held hl hh), fun hl hh => hx (disableLink_fault_empty hl hh)⟩

end Sys2Proof.Machine
end

section
/-! ## The phases of an attempt (O48), and the end of a fault and of a broadcast (O51) -/

namespace Sys2Proof.Machine

/-! ### The phases of an attempt -/

/-- STOPPING shows every phase of an exchange as itself (R83). -/
theorem exchangeState_eq {l : LinkEngine} {active shown : LinkState}
    (h : l.stopPending = true ∧ shown = .stopping ∨ l.stopPending = false ∧ shown = active) :
    exchangeState l active = shown := by
  rcases h with ⟨hp, rfl⟩ | ⟨hp, rfl⟩ <;> simp [exchangeState, hp]

theorem exec_callSent {s : State} (h : s.Running) : exec .callSent s = .next (callSent s) :=
  congrArg Host.Outcome.next (whileRunning_running h)

theorem exec_replyStartBit {s : State} (h : s.Running) : exec .replyStartBit s = .next (replyStartBit s) :=
  congrArg Host.Outcome.next (whileRunning_running h)

theorem exec_retryGapEnd {s : State} (h : s.Running) : exec .retryGapEnd s = .next (retryGapEnd s) :=
  congrArg Host.Outcome.next (whileRunning_running h)

theorem not_exchangeIn_of_activity {s : State} {shown : LinkState} {act : Activity} (h : s.link.activity ≠ act) :
    ¬ s.exchangeIn shown act = true :=
  fun hx => h ((exchangeIn_iff s shown act).1 hx).1

theorem callSent_broadcasting {s : State} (ha : s.link.activity = .transmitting) (hs : s.link.state = .broadcasting) :
    callSent s = s.setLink { s.link with activity := .frameEnding } := by
  have hx : ¬ s.exchangeIn .sending .transmitting = true := by simp [exchangeIn_iff, hs]
  rw [callSent, if_neg hx, if_pos ⟨hs, ha⟩]

theorem callSent_of_not {s : State} (ha : s.link.activity ≠ .transmitting) : callSent s = s := by
  rw [callSent, if_neg (not_exchangeIn_of_activity ha), if_neg fun h => ha h.2]

/-- Settles O48: each event in the phase it ends, and out of it. -/
theorem attemptPhases : Obligations.AttemptPhases := by
  intro s h
  refine ⟨fun shown hs ha hl => ?_, fun ha hl => ?_, fun ha => ?_, fun shown hs ha hl => ?_, fun ha => ?_,
    fun ha hl => ?_, fun ha => ?_⟩
  · rw [exec_callSent h, callSent, if_pos ((exchangeIn_iff _ _ _).2 ⟨ha, hl⟩), exchangeState_eq hs]
    rfl
  · rw [exec_callSent h, callSent_broadcasting ha hl]
    rfl
  · rw [exec_callSent h, callSent_of_not ha]
  · rw [exec_replyStartBit h, replyStartBit, if_pos ((exchangeIn_iff _ _ _).2 ⟨ha, hl⟩), exchangeState_eq hs]
    rfl
  · rw [exec_replyStartBit h, replyStartBit, if_neg (not_exchangeIn_of_activity ha)]
  · rw [exec_retryGapEnd h, retryGapEnd, if_pos ((exchangeIn_iff _ _ _).2 ⟨ha, hl⟩)]
    rfl
  · rw [exec_retryGapEnd h, retryGapEnd, if_neg (not_exchangeIn_of_activity ha)]

/-! ### Where the engine goes on -/

theorem afterWork_of_restart {s : State} (hp : s.link.restartPending = true) : afterWork s = beginRestart s :=
  if_pos hp

section
variable {s : State} (hp : s.link.restartPending = false)
include hp

theorem afterWork_of_stop (hs : s.link.stopPending = true) : afterWork s = enterOff s := by
  simp [afterWork, hp, hs]

theorem afterWork_of_neither (hs : s.link.stopPending = false) : afterWork s = enterIdle s := by
  simp [afterWork, hp, hs]

end

theorem leaveFault_of_call {s : State} {c : Call} (hc : s.link.current = some c) : leaveFault s = startExchange s := by
  simp [leaveFault, hc]

section
variable {s : State} (hc : s.link.current = none)
include hc

theorem leaveFault_of_broadcast (hb : s.link.heldBroadcast = true) : leaveFault s = enterBroadcasting s := by
  simp [leaveFault, hc, hb]

theorem leaveFault_of_neither (hb : s.link.heldBroadcast = false) : leaveFault s = afterWork s := by
  simp [leaveFault, hc, hb]

end

theorem exec_lineRestored {s : State} (h : s.Running) : exec .lineRestored s = .next (lineRestored s) :=
  congrArg Host.Outcome.next (whileRunning_running h)

theorem lineRestored_of_not {s : State} (h : s.link.state ≠ .fault ∨ s.link.quiet < 10) : lineRestored s = s := by
  unfold lineRestored
  split
  next hs => exact if_neg (Nat.not_le.2 (h.resolve_left (not_not_intro hs)))
  all_goals rfl

theorem lineRestored_of_quiet {s : State} (hs : s.link.state = .fault) (hq : 10 ≤ s.link.quiet) :
    lineRestored s = leaveFault (post .lineRestored 0 0 s) := by
  rw [lineRestored, hs]
  exact if_pos hq

theorem exec_broadcastEnd {s : State} (h : s.Running) : exec .broadcastEnd s = .next (broadcastEnd s) :=
  congrArg Host.Outcome.next (whileRunning_running h)

theorem broadcastEnd_of_not {s : State} (h : s.link.state ≠ .broadcasting) : broadcastEnd s = s := by
  unfold broadcastEnd
  split
  next hs => exact absurd hs h
  all_goals rfl

theorem broadcastEnd_of_broadcasting {s : State} (h : s.link.state = .broadcasting) : broadcastEnd s = afterWork s := by
  rw [broadcastEnd, h]

/-- Settles O51: what leaveFault and afterWork go on to; posting LINE_RESTORED leaves the engine as it was. -/
theorem lineRestoredAndBroadcastEnd : Obligations.LineRestoredAndBroadcastEnd := by
  refine ⟨fun s h => ?_, fun s h => ⟨fun hs => ?_, fun hs hr hp => ?_, fun hs hr hp => ?_, fun hs hr => ?_⟩⟩
  · intro s1
    have hl : s1.link = s.link := post_link _ _ _ _
    refine ⟨fun hn => by rw [exec_lineRestored h, lineRestored_of_not hn], fun hs hq => ?_⟩
    rw [exec_lineRestored h, lineRestored_of_quiet hs hq, ← hl]
    refine ⟨fun c hc => ?_, fun hc hb => ?_, fun hc hb hr => ?_, fun hc hb hr hp => ?_, fun hc hb hr hp => ?_⟩
    · exact congrArg Host.Outcome.next (leaveFault_of_call hc)
    · exact congrArg Host.Outcome.next (leaveFault_of_broadcast hc hb)
    · exact congrArg Host.Outcome.next
        ((leaveFault_of_neither hc hb).trans ((afterWork_of_restart hr).trans (beginRestart_eq s1)))
    · exact congrArg Host.Outcome.next ((leaveFault_of_neither hc hb).trans (afterWork_of_stop hr hp))
    · exact congrArg Host.Outcome.next ((leaveFault_of_neither hc hb).trans (afterWork_of_neither hr hp))
  · rw [exec_broadcastEnd h, broadcastEnd_of_not hs]
  · rw [exec_broadcastEnd h, broadcastEnd_of_broadcasting hs, afterWork_of_neither hr hp]
    rfl
  · rw [exec_broadcastEnd h, broadcastEnd_of_broadcasting hs, afterWork_of_stop hr hp]
    rfl
  · rw [exec_broadcastEnd h, broadcastEnd_of_broadcasting hs, afterWork_of_restart hr, beginRestart_eq]

end Sys2Proof.Machine
end

section
/-! ## Line faults (O50) -/

namespace Sys2Proof.Machine

theorem exec_lineFault {s : State} (h : s.Running) (cause : FaultCause) :
    exec (.lineFault cause) s = .next (lineFault cause (faultPins cause s)) :=
  congrArg Host.Outcome.next (whileRunning_running h)

theorem exec_quietTimeRestart {s : State} (h : s.Running) (brk : QuietBreak) :
    exec (.quietTimeRestart brk) s = .next (quietTimeRestart brk s) :=
  congrArg Host.Outcome.next (whileRunning_running h)

@[simp] theorem faultPins_link (cause : FaultCause) (s : State) : (faultPins cause s).link = s.link := by
  cases cause <;> rfl

/-- What TXD carries depends on the engine alone. -/
theorem echoMismatch_congr {s t : State} (h : t.link = s.link) : t.echoMismatch = s.echoMismatch := by
  unfold State.echoMismatch State.txBits State.txd State.txFrame State.txen
  rw [h]

theorem watches_faultPins (cause : FaultCause) (s : State) : (faultPins cause s).watches cause = s.watches cause := by
  cases cause with
  | lfltnLow => rfl
  | echo bit rxd => exact congrFun (congrFun (echoMismatch_congr (faultPins_link _ s)) bit) rxd

/-! ### The cause by the state of the engine -/

theorem lineFault_of_off {s : State} (hs : s.link.state = .off) (cause : FaultCause) : lineFault cause s = s := by
  rw [lineFault, hs]

theorem lineFault_of_fault {s : State} (hs : s.link.state = .fault) (cause : FaultCause) :
    lineFault cause s = if breaksQuiet cause then s.setLink { s.link with quiet := 0 } else s := by
  rw [lineFault, hs]

theorem lineFault_of_unwatched {cause : FaultCause} {s : State} (hs : s.link.state ≠ .fault)
    (hw : s.watches cause = false) : lineFault cause s = s := by
  unfold lineFault
  split
  · rfl
  next h => exact absurd h hs
  all_goals rw [hw]; rfl

theorem lineFault_of_watched {cause : FaultCause} {s : State} (ho : s.link.state ≠ .off) (hs : s.link.state ≠ .fault)
    (hw : s.watches cause = true) : lineFault cause s = takeFault s := by
  unfold lineFault
  split
  next h => exact absurd h ho
  next h => exact absurd h hs
  all_goals exact if_pos hw

theorem quietTimeRestart_of_not {s : State} (hs : s.link.state ≠ .fault) (brk : QuietBreak) :
    quietTimeRestart brk s = s := by
  unfold quietTimeRestart
  split
  next h => exact absurd h hs
  all_goals rfl

/-! ### The echo -/

/-- A bit past the end of the frame, and a sample that agrees with TXD, are no mismatch (R69). -/
theorem echoMismatch_of_agreed {s : State} {bytes : List Byte} {bit : Nat} {rxd : Level} (h : s.txFrame = some bytes)
    (hb : 10 * bytes.length ≤ bit ∨ rxd = s.txd bit) : s.echoMismatch bit rxd = false := by
  rw [State.echoMismatch, txBits_of_txFrame h]
  rcases hb with hb | hb
  · simp [Nat.not_lt.2 hb]
  · simp [hb]

/-- Settles O50: the cause is judged in OFF, in FAULT and elsewhere, where an echo is a fault only as a mismatch. -/
theorem Settled.lineFault : Obligations.LineFault := by
  intro cause s h s1
  have h1 : faultPins cause s = s1 := by cases cause <;> rfl
  have hw : s1.watches cause = s.watches cause := h1 ▸ watches_faultPins cause s
  have hx : ∀ {t}, Machine.lineFault cause s1 = t → exec (.lineFault cause) s = .next t := by
    intro t ht
    rw [exec_lineFault h, h1, ht]
  refine ⟨fun hs => hx (lineFault_of_off (s := s1) hs cause), fun hs hc => hx ?_, fun bit hs hc => hx ?_,
    fun bit rxd hs hc hb => hx (lineFault_of_unwatched (s := s1) hs (hw.trans ?_)),
    fun ho hs hc => hx ((lineFault_of_watched (s := s1) ho hs (hw.trans ?_)).trans ?_), fun brk hs => ?_,
    fun brk hs => ?_⟩
  · have hq : breaksQuiet cause = true := by
      rcases hc with hc | ⟨bit, hc⟩ <;> rw [hc] <;> rfl
    rw [lineFault_of_fault (s := s1) hs, if_pos hq]
    rfl
  · rw [lineFault_of_fault (s := s1) hs, hc]
    rfl
  · rw [hc]
    rcases hb with ha | ⟨bytes, hf, hb⟩
    · exact echoMismatch_of_quiet ha bit rxd
    · exact echoMismatch_of_agreed hf hb
  · rcases hc with hc | ⟨bytes, n, k, b, rxd, hf, hb, hk, hc, hr⟩ <;> rw [hc]
    · rfl
    · exact (echoMismatch_iff hf hb hk rxd).2 hr
  · rw [takeFault, beq_eq_decide]
    rfl
  · rw [exec_quietTimeRestart h, quietTimeRestart, hs]
    cases brk <;> rfl
  · rw [exec_quietTimeRestart h, quietTimeRestart_of_not hs]

end Sys2Proof.Machine
end

section
/-! ## Frames read back (O29, O30)

What classify asks of a frame, as one equivalence; what Table 3-3 permits, an equivalence for each row; and the levels
on the line. -/

namespace Sys2Proof.Machine

/-! ### The classification -/

/-- A frame with a header is classified REPLY exactly by the conditions of R73. -/
theorem classify_header_iff (c : Call) (sync h1 h2 len : Byte) (rest : List Byte) (framingError : Bool) (r : Reply)
    (q : Bool) :
    classify c (sync :: h1 :: h2 :: len :: rest) framingError = .reply r q ↔
      (framingError = false ∧ sync = 0xC3#8 ∧ len.toNat ≤ Config.framePayload ∧ rest.length = len.toNat + 2 ∧
        rest.drop len.toNat =
          [lowByte (crc (h1 :: h2 :: len :: rest.take len.toNat)),
            highByte (crc (h1 :: h2 :: len :: rest.take len.toNat))] ∧
        h1.getLsbD 5 = true ∧ h1.extractLsb' 0 5 = c.address) ∧
      permittedReply c.kind (h2.extractLsb' 0 4) (rest.take len.toNat) = some r ∧ h1.getLsbD 6 = q := by
  unfold classify
  dsimp only
  split
  next hx =>
    cases permittedReply c.kind (h2.extractLsb' 0 4) (rest.take len.toNat) with
    | none => simp
    | some r' => simp [hx]
  next hx => exact iff_of_false nofun fun h => hx h.1

theorem classify_reply_or_garble (c : Call) (bytes : List Byte) (framingError : Bool) :
    (∃ r q, classify c bytes framingError = .reply r q) ∨ classify c bytes framingError = .garble := by
  unfold classify
  split
  · dsimp only
    split
    · split
      · exact Or.inl ⟨_, _, rfl⟩
      · exact Or.inr rfl
    · exact Or.inr rfl
  · exact Or.inr rfl

theorem classify_eq_garble {c : Call} {bytes : List Byte} {framingError : Bool}
    (h : ∀ r q, classify c bytes framingError ≠ .reply r q) : classify c bytes framingError = .garble :=
  (classify_reply_or_garble c bytes framingError).resolve_left fun ⟨r, q, hr⟩ => h r q hr

/-- A reply has no framing error and at least the bytes of a frame without payload (R73). -/
theorem classify_reply {c : Call} {bytes : List Byte} {framingError : Bool} {r : Reply} {q : Bool}
    (h : classify c bytes framingError = .reply r q) : framingError = false ∧ 6 ≤ bytes.length := by
  match bytes with
  | [] | [_] | [_, _] | [_, _, _] => cases h
  | sync :: h1 :: h2 :: len :: rest =>
    obtain ⟨⟨hf, -, -, hl, -⟩, -⟩ := (classify_header_iff c sync h1 h2 len rest framingError r q).1 h
    exact ⟨hf, by simp only [List.length_cons]; omega⟩

theorem lowByte_highByte_iff (w : BitVec 16) (lo hi : Byte) : [lo, hi] = [lowByte w, highByte w] ↔ hi ++ lo = w := by
  constructor
  · intro h
    obtain ⟨rfl, rfl⟩ : lo = lowByte w ∧ hi = highByte w := by simpa using h
    exact BitVec.extractLsb'_append_extractLsb'
  · rintro rfl
    rw [lowByte_append, highByte_append]

/-- The conditions of R73 on a frame cut into its fields. -/
theorem classify_frame_iff (c : Call) (sync h1 h2 len lo hi : Byte) (payload : List Byte) (r : Reply) (q : Bool) :
    classify c (sync :: h1 :: h2 :: len :: (payload ++ [lo, hi])) false = .reply r q ↔
      sync = 0xC3#8 ∧ len.toNat ≤ 32 ∧ len.toNat = payload.length ∧ hi ++ lo = crc (h1 :: h2 :: len :: payload) ∧
        h1.getLsbD 5 = true ∧ h1.extractLsb' 0 5 = c.address ∧
        permittedReply c.kind (h2.extractLsb' 0 4) payload = some r ∧ h1.getLsbD 6 = q := by
  rw [classify_header_iff]
  by_cases hl : len.toNat = payload.length
  · have ht : (payload ++ [lo, hi]).take len.toNat = payload := List.take_left' hl.symm
    have hd : (payload ++ [lo, hi]).drop len.toNat = [lo, hi] := List.drop_left' hl.symm
    rw [ht, hd, lowByte_highByte_iff]
    simp [hl, Config.framePayload, and_assoc]
  · have hn : (payload ++ [lo, hi]).length ≠ len.toNat + 2 := by
      rw [List.length_append]
      exact fun h => hl (Nat.add_right_cancel h).symm
    exact iff_of_false (fun ⟨⟨_, _, _, h, _⟩, _⟩ => hn h) fun ⟨_, _, h, _⟩ => hl h

/-- Settles O30: a frame classified REPLY would meet the very condition that it fails. -/
theorem badFrameIsGarble : Obligations.BadFrameIsGarble := by
  intro c sync h1 h2 len lo hi payload
  refine ⟨fun bytes => classify_eq_garble fun r q h => ?_, fun bytes hb => classify_eq_garble fun r q h => ?_,
    fun hbad => classify_eq_garble fun r q h => ?_⟩
  · cases (classify_reply h).1
  · exact absurd (classify_reply h).2 (Nat.not_le.2 hb)
  · obtain ⟨hsync, h32, hlen, hcrc, hdir, haddr, hper, -⟩ := (classify_frame_iff c sync h1 h2 len lo hi payload r q).1 h
    rcases hbad with hn | hn | hn | hn | hn | hn | hn
    · exact hn hsync
    · exact hn hlen
    · omega
    · exact hn hcrc
    · rw [hdir] at hn
      cases hn
    · exact hn haddr
    · rw [hper] at hn
      cases hn

/-! ### Bits of a byte -/

/-- A byte within 15 is its low four bits. -/
theorem nibble_of_le : ∀ {b : Byte}, b.toNat ≤ 15 → 0#4 ++ b.extractLsb' 0 4 = b := by decide +kernel

theorem toNat_nibble_le : ∀ x : BitVec 4, (0#4 ++ x : Byte).toNat ≤ 15 := by decide

theorem extract_nibble : ∀ x : BitVec 4, (0#4 ++ x : Byte).extractLsb' 0 4 = x := by decide

theorem control_pageOfBytes (c b0 b1 b2 b3 : Byte) : (pageOfBytes c b0 b1 b2 b3).control = c := by
  have h : ∀ c : Byte, (pageOfBytes c 0 0 0 0).control = c := by decide +kernel
  exact h c

theorem pageOfBytes_control (p : Page) : pageOfBytes p.control p.body.b0 p.body.b1 p.body.b2 p.body.b3 = p := by
  obtain ⟨kind, more, toggle, ackValid, ackToggle, comply, fresh, body⟩ := p
  have h : ∀ more toggle ackValid ackToggle comply fresh : Bool,
      pageOfBytes (Page.control ⟨kind, more, toggle, ackValid, ackToggle, comply, fresh, ⟨0, 0, 0, 0⟩⟩) 0 0 0 0 =
        ⟨kind, more, toggle, ackValid, ackToggle, comply, fresh, ⟨0, 0, 0, 0⟩⟩ := by
    cases kind <;> decide +kernel
  exact congrArg (fun x : Page => { x with body := body }) (h more toggle ackValid ackToggle comply fresh)

/-! ### Table 3-3 -/

/-- The kinds of reply that Table 3-3 lists for a call, by their codes (R190). -/
def CallKind.replyKinds (call : CallKind) : List (BitVec 4) :=
  match call with
  | .census => [1]
  | .page => [2]
  | .settle | .verdict | .release => [3]
  | .poll => [4]
  | .fetch => [5, 6]
  | .command => [7, 8, 9]

/-- Each of the sixteen codes is listed for the call, or no row of the table has it, and then `h` equates `none` and a
reply. -/
theorem kind_mem_of_permitted {call : CallKind} {kind : BitVec 4} {payload : List Byte} {r : Reply}
    (h : permittedReply call kind payload = some r) : kind ∈ call.replyKinds := by
  obtain ⟨⟨n, hn⟩⟩ := kind
  cases call <;> interval_cases n
  all_goals first | cases h | exact List.elem_iff.1 rfl

theorem permittedReply_iff_mem (call : CallKind) (kind : BitVec 4) (payload : List Byte) (r : Reply) :
    permittedReply call kind payload = some r ↔
      ∃ k ∈ call.replyKinds, kind = k ∧ permittedReply call k payload = some r := by
  constructor
  · exact fun h => ⟨kind, kind_mem_of_permitted h, rfl, h⟩
  · rintro ⟨k, -, rfl, h⟩
    exact h

section
variable {payload : List Byte} {r : Reply}

theorem permittedReply_hello :
    permittedReply .census 1 payload = some r ↔ ∃ slot cls, payload = [slot, 0#4 ++ cls] ∧ r = .hello slot cls := by
  constructor
  · intro h
    match payload, h with
    | [slot, b], h =>
      obtain ⟨hb, ⟨⟩⟩ := Option.ite_none_right_eq_some.1 h
      exact ⟨slot, _, by rw [nibble_of_le hb], rfl⟩
  · rintro ⟨slot, cls, rfl, rfl⟩
    exact (if_pos (toNat_nibble_le cls)).trans (by rw [extract_nibble])

theorem permittedReply_page :
    permittedReply .page 2 payload = some r ↔ ∃ p : Page, r = .page p ∧ payload = p.bytes := by
  constructor
  · intro h
    match payload, h with
    | [c, b0, b1, b2, b3], h =>
      cases h
      exact ⟨_, rfl, congrArg (· :: [b0, b1, b2, b3]) (control_pageOfBytes c b0 b1 b2 b3).symm⟩
  · rintro ⟨p, rfl, rfl⟩
    exact congrArg (fun x => some (Reply.page x)) (pageOfBytes_control p)

theorem permittedReply_settleAck :
    permittedReply .settle 3 payload = some r ↔ ∃ profile, payload = [profile] ∧ r = .settleAck profile := by
  constructor
  · intro h
    match payload, h with
    | [profile], h =>
      cases h
      exact ⟨profile, rfl, rfl⟩
  · rintro ⟨profile, rfl, rfl⟩
    rfl

theorem permittedReply_status :
    permittedReply .poll 4 payload = some r ↔
      ∃ record : StatusRecord, r = .status record ∧
        payload =
          [record.state, record.alarm, 0#4 ++ record.pending, record.r0, record.r1, record.r2, record.r3] := by
  constructor
  · intro h
    match payload, h with
    | [st, al, pc, r0, r1, r2, r3], h =>
      obtain ⟨hb, ⟨⟩⟩ := Option.ite_none_right_eq_some.1 h
      exact ⟨_, rfl, by rw [nibble_of_le hb]⟩
  · rintro ⟨record, rfl, rfl⟩
    exact (if_pos (toNat_nibble_le _)).trans (by rw [extract_nibble])

theorem permittedReply_message :
    permittedReply .fetch 5 payload = some r ↔
      ∃ cls number data, data.length ≤ 28 ∧ r = .message cls number data ∧
        payload = cls :: (0#4 ++ number) :: BitVec.ofNat 8 data.length :: data := by
  constructor
  · intro h
    match payload, h with
    | cls :: number :: n :: data, h =>
      obtain ⟨⟨hb, hn, hl⟩, ⟨⟩⟩ := Option.ite_none_right_eq_some.1 h
      exact ⟨cls, _, data, hl, rfl, by rw [nibble_of_le hb, ← hn, BitVec.ofNat_toNat, BitVec.setWidth_eq]⟩
  · rintro ⟨cls, number, data, hl, rfl, rfl⟩
    have hn : (BitVec.ofNat 8 data.length).toNat = data.length := Nat.mod_eq_of_lt (by omega)
    exact (if_pos ⟨toNat_nibble_le number, hn, hl⟩).trans (by rw [extract_nibble])

theorem permittedReply_empty : permittedReply .fetch 6 payload = some r ↔ payload = [] ∧ r = .empty := by
  constructor
  · intro h
    match payload, h with
    | [], h =>
      cases h
      exact ⟨rfl, rfl⟩
  · rintro ⟨rfl, rfl⟩
    rfl

theorem permittedReply_ack {call : CallKind} (hc : call = .verdict ∨ call = .release) :
    permittedReply call 3 payload = some r ↔ payload = [] ∧ r = .ack := by
  constructor
  · intro h
    rcases hc with rfl | rfl
    all_goals
      match payload, h with
      | [], h =>
        cases h
        exact ⟨rfl, rfl⟩
  · rintro ⟨rfl, rfl⟩
    rcases hc with rfl | rfl <;> rfl

theorem permittedReply_result :
    permittedReply .command 7 payload = some r ↔ payload.length ≤ 24 ∧ r = .result payload :=
  Option.ite_none_right_eq_some.trans (and_congr_right' (by rw [Option.some.injEq, eq_comm]))

theorem permittedReply_working : permittedReply .command 8 payload = some r ↔ payload = [] ∧ r = .working := by
  constructor
  · intro h
    match payload, h with
    | [], h =>
      cases h
      exact ⟨rfl, rfl⟩
  · rintro ⟨rfl, rfl⟩
    rfl

theorem permittedReply_refused :
    permittedReply .command 9 payload = some r ↔ ∃ reason, reason ≠ 0 ∧ payload = [reason] ∧ r = .refused reason := by
  constructor
  · intro h
    match payload, h with
    | [reason], h =>
      obtain ⟨hb, ⟨⟩⟩ := Option.ite_none_right_eq_some.1 h
      exact ⟨reason, by rintro rfl; exact absurd hb (by decide), rfl, rfl⟩
  · rintro ⟨reason, hz, rfl, rfl⟩
    exact if_pos (Nat.pos_of_ne_zero fun h => hz (BitVec.eq_of_toNat_eq h))

end

/-- Table 3-3, row by row, as Table 10-2 places the fields. -/
theorem permittedReply_iff (call : CallKind) (kind : BitVec 4) (payload : List Byte) (r : Reply) :
    permittedReply call kind payload = some r ↔
      (call = .census ∧ kind = 1 ∧ ∃ slot cls, payload = [slot, 0#4 ++ cls] ∧ r = .hello slot cls) ∨
      (call = .page ∧ kind = 2 ∧ ∃ p : Page, r = .page p ∧ payload = p.bytes) ∨
      (call = .settle ∧ kind = 3 ∧ ∃ profile, payload = [profile] ∧ r = .settleAck profile) ∨
      (call = .poll ∧ kind = 4 ∧ ∃ record : StatusRecord, r = .status record ∧
        payload =
          [record.state, record.alarm, 0#4 ++ record.pending, record.r0, record.r1, record.r2, record.r3]) ∨
      (call = .fetch ∧ kind = 5 ∧ ∃ cls number data, data.length ≤ 28 ∧ r = .message cls number data ∧
        payload = cls :: (0#4 ++ number) :: BitVec.ofNat 8 data.length :: data) ∨
      (call = .fetch ∧ kind = 6 ∧ payload = [] ∧ r = .empty) ∨
      ((call = .verdict ∨ call = .release) ∧ kind = 3 ∧ payload = [] ∧ r = .ack) ∨
      (call = .command ∧ kind = 7 ∧ payload.length ≤ 24 ∧ r = .result payload) ∨
      (call = .command ∧ kind = 8 ∧ payload = [] ∧ r = .working) ∨
      (call = .command ∧ kind = 9 ∧ ∃ reason, reason ≠ 0 ∧ payload = [reason] ∧ r = .refused reason) := by
  rw [permittedReply_iff_mem]
  cases call <;>
    simp only [CallKind.replyKinds, List.mem_cons, List.not_mem_nil, or_false, exists_eq_or_imp, exists_eq_left,
      reduceCtorEq, or_true, true_and, false_and, false_or]
  case census => exact and_congr_right' permittedReply_hello
  case page => exact and_congr_right' permittedReply_page
  case settle => exact and_congr_right' permittedReply_settleAck
  case poll => exact and_congr_right' permittedReply_status
  case fetch => exact or_congr (and_congr_right' permittedReply_message) (and_congr_right' permittedReply_empty)
  case verdict => exact and_congr_right' (permittedReply_ack (Or.inl rfl))
  case command =>
    exact or_congr (and_congr_right' permittedReply_result)
      (or_congr (and_congr_right' permittedReply_working) (and_congr_right' permittedReply_refused))
  case release => exact and_congr_right' (permittedReply_ack (Or.inr rfl))

/-! ### The levels on the line -/

theorem serial_start (b : Byte) : (serial b).getLsbD 0 = false := by
  simpa [startConfirmed] using startConfirmed_serial b

theorem serial_data (b : Byte) {k : Nat} (hk : k < 8) : (serial b).getLsbD (k + 1) = b.getLsbD k := by
  have h := congrArg (fun x : Byte => x.getLsbD k) (sampledByte_serial b)
  simpa [sampledByte, hk, Nat.add_comm] using h

theorem serial_stop (b : Byte) : (serial b).getLsbD 9 = true := by
  simpa [hasFramingError_eq] using hasFramingError_serial b

theorem txFrame_of_call {s : State} {c : Call} (hs : s.link.state ≠ .broadcasting)
    (ha : s.link.activity = .transmitting) (hc : s.link.current = some c) : s.txFrame = some c.frame := by
  have ht : s.txen = true := by simp [State.txen, ha]
  rw [State.txFrame, if_pos ht]
  split
  next h => exact absurd h hs
  all_goals rw [hc]; rfl

theorem txd_past_frame {s : State} {bytes : List Byte} (h : s.txFrame = some bytes) {m : Nat}
    (hm : 10 * bytes.length ≤ m) : s.txd m = .high := by
  rw [State.txd, h]
  dsimp only
  rw [List.getD_eq_default _ _ (by rwa [length_lineBits])]
  rfl

theorem txd_of_quiet {s : State} (ha : s.link.activity ≠ .transmitting) (m : Nat) : s.txd m = .high := by
  have hn : s.txFrame = none := by simp [State.txFrame, State.txen, ha]
  rw [State.txd, hn]

/-- Table 3-2. -/
theorem bitMicros_of_valid : ∀ {rate : BitVec 2}, rate ≠ 3 →
    Config.bitMicros rate = some (if rate = 0 then 8 else if rate = 1 then 4 else 2) := by decide

theorem byteMicros_of_valid : ∀ {rate : BitVec 2}, rate ≠ 3 →
    (Config.bitMicros rate).map (fun t => Config.byteBits * t) =
      some (if rate = 0 then 80 else if rate = 1 then 40 else 20) := by decide

/-! ### The samples of the receiver -/

section
variable {c : Samples} (l : List Samples)

theorem receivedBytes_noise (hc : c.getLsbD 0 = true) : receivedBytes (c :: l) = receivedBytes l := by
  simp [receivedBytes, startConfirmed, hc]

theorem anyFramingError_noise (hc : c.getLsbD 0 = true) : anyFramingError (c :: l) = anyFramingError l := by
  simp [anyFramingError, startConfirmed, hc]

theorem anyFramingError_of_mem (hm : c ∈ l) (h0 : c.getLsbD 0 = false) (h9 : c.getLsbD 9 = false) :
    anyFramingError l = true := by
  have hs : startConfirmed c = true := by rw [startConfirmed, h0]; rfl
  have hf : hasFramingError c = true := by rw [hasFramingError_eq, h9]; rfl
  exact List.any_eq_true.2 ⟨c, List.mem_filter.2 ⟨hm, hs⟩, hf⟩

end

theorem crc_append_byte (l : List Byte) (b : Byte) : crc (l ++ [b]) = crcByte (crc l) b := List.foldl_append

/-! ### A reply built as a frame -/

/-- The address byte of a frame (Table 10-1). -/
def addressByte (seq direction : Bool) (address : BitVec 5) : Byte :=
  0#1 ++ BitVec.ofBool seq ++ BitVec.ofBool direction ++ address

theorem addressByte_direction : ∀ (seq direction : Bool) (address : BitVec 5),
    (addressByte seq direction address).getLsbD 5 = direction := by decide +kernel

theorem addressByte_seq : ∀ (seq direction : Bool) (address : BitVec 5),
    (addressByte seq direction address).getLsbD 6 = seq := by decide +kernel

theorem addressByte_address : ∀ (seq direction : Bool) (address : BitVec 5),
    (addressByte seq direction address).extractLsb' 0 5 = address := by decide +kernel

/-- A permitted reply sent as a frame is classified REPLY with its own sequence bit (R67, R73). -/
theorem classify_frame (c : Call) (q : Bool) {kind : BitVec 4} {payload : List Byte} {r : Reply}
    (hl : payload.length ≤ 32) (h : permittedReply c.kind kind payload = some r) :
    classify c (frame c.address q true kind payload) false = .reply r q := by
  have hn : (BitVec.ofNat 8 payload.length).toNat = payload.length := Nat.mod_eq_of_lt (by omega)
  refine (classify_frame_iff c 0xC3#8 (addressByte q true c.address) (0#4 ++ kind) (BitVec.ofNat 8 payload.length) _ _
    payload r q).2 ⟨rfl, by rw [hn]; exact hl, hn, (lowByte_highByte_iff _ _ _).1 rfl, addressByte_direction _ _ _,
    addressByte_address _ _ _, ?_, addressByte_seq _ _ _⟩
  rw [extract_nibble]
  exact h

/-- Settles O29: the line, Table 3-3 by `permittedReply_iff`, and the frame of a reply by `classify_frame`. -/
theorem builtReplyIsRead : Obligations.BuiltReplyIsRead := by
  refine ⟨⟨fun b => ⟨serial_start b, fun k hk => serial_data b hk, serial_stop b⟩, fun s c hs ha hc => ?_,
    fun s bytes h => ⟨fun n k b hb hk => txd_of_txFrame h hb hk, fun m hm => txd_past_frame h hm⟩,
    fun s m ha => txd_of_quiet ha m, fun s hr => ⟨bitMicros_of_valid hr, ?_⟩,
    fun bytes => ⟨receivedBytes_serial bytes, anyFramingError_serial bytes⟩,
    fun c l hc => ⟨receivedBytes_noise l hc, anyFramingError_noise l hc⟩,
    fun c l hm h0 h9 => anyFramingError_of_mem l hm h0 h9, rfl, fun l b => crc_append_byte l b⟩,
    permittedReply_iff, fun c q kind payload r hl h => classify_frame c q hl h⟩
  · rw [txFrame_of_call hs ha hc, Call.frame]
    cases c.kind <;> rfl
  · exact byteMicros_of_valid hr

end Sys2Proof.Machine
end

section
/-! ## The deferred queue (O59)

Every operation but an allocation takes entries out of the queue or decides them, and leaves the call on the link alone
or ends it. -/

namespace Sys2Proof.Machine

/-- Operations that leave the call on the link and take entries out of the queue or decide them. -/
theorem deferredOk_shrink {s t : State} (hq : PartOf t.mu.queue s.mu.queue) (hc : t.link.current = s.link.current)
    (h : DeferredOk s) : DeferredOk t :=
  deferredOk_of_part h hq fun _ hx => hc ▸ hx

theorem deferredOk_congr {s t : State} (hq : t.mu.queue = s.mu.queue) (hc : t.link.current = s.link.current) :
    DeferredOk s → DeferredOk t :=
  deferredOk_shrink (by rw [hq]; exact PartOf.refl _) hc

/-! ### The actions -/

theorem enableLink_deferredOk (l : Level) {s : State} (h : DeferredOk s) : DeferredOk (enableLink l s).1 := by
  unfold enableLink
  repeat' split
  all_goals exact deferredOk_congr (by simp) (by simp [takeFault_link, enterIdle]) h

theorem disableLink_deferredOk {s : State} (h : DeferredOk s) : DeferredOk (disableLink s).1 := by
  unfold disableLink
  repeat' split
  all_goals exact deferredOk_congr rfl rfl h

theorem beginRestart_deferredOk {s : State} (h : DeferredOk s) : DeferredOk (beginRestart s) :=
  deferredOk_shrink (by simpa [beginRestart] using restartTable_part (s.setLink { s.link with restartPending := false }))
    (by rw [beginRestart_link]) h

theorem restartLink_deferredOk {s : State} (h : DeferredOk s) : DeferredOk (restartLink s).1 := by
  unfold restartLink
  split
  · exact h
  · exact beginRestart_deferredOk h
  all_goals exact deferredOk_congr rfl rfl h

theorem submit_deferredOk {s : State} (h : DeferredOk s) : DeferredOk (submit s).1 := by
  unfold submit
  split <;> exact deferredOk_congr rfl rfl h

theorem cancel_deferredOk {s : State} (h : DeferredOk s) : DeferredOk (cancel s).1 := by
  unfold cancel cancelFound
  split <;> exact deferredOk_congr (by simp) (by simp) h

theorem popCompletion_deferredOk {s : State} (h : DeferredOk s) : DeferredOk (popCompletion s).1 := by
  unfold popCompletion
  split <;> exact deferredOk_congr rfl rfl h

theorem judgeVerdict_deferredOk (g : Handle) (generation : Byte) (v : VerdictCode × Byte) {s : State}
    (h : DeferredOk s) : DeferredOk (judgeVerdict g generation v s).1 := by
  unfold judgeVerdict
  split
  · exact h
  split
  · exact h
  split
  · exact h
  · exact deferredOk_shrink (decideEntry_part _ _ s) rfl h

theorem verdict_deferredOk {s : State} (h : DeferredOk s) : DeferredOk (verdict s).1 := by
  unfold verdict
  split
  · exact h
  split
  · exact h
  · exact judgeVerdict_deferredOk _ _ _ h

theorem popNotice_deferredOk {s : State} (h : DeferredOk s) : DeferredOk (popNotice s).1 := by
  unfold popNotice
  repeat' split
  all_goals exact deferredOk_congr rfl rfl h

theorem enterVacant_deferredOk (i : Slot) (st : CompletionStatus) {s : State} (h : DeferredOk s) :
    DeferredOk (enterVacant i st s) :=
  deferredOk_shrink (enterVacant_part i st s) (by simp) h

theorem detachSlot_deferredOk (i : Slot) {s : State} (h : DeferredOk s) : DeferredOk (detachSlot i s).1 := by
  have hv := enterVacant_deferredOk i .detached h
  unfold detachSlot
  split
  · exact h
  all_goals exact deferredOk_congr rfl rfl hv

theorem releaseSlot_deferredOk (i : Slot) {s : State} (h : DeferredOk s) : DeferredOk (releaseSlot i s).1 := by
  have hv := enterVacant_deferredOk i .detached h
  unfold releaseSlot
  split
  · exact deferredOk_congr rfl rfl hv
  · exact hv
  all_goals exact h

theorem renegotiateSlot_deferredOk (i : Slot) {s : State} (h : DeferredOk s) : DeferredOk (renegotiateSlot i s).1 := by
  unfold renegotiateSlot
  split <;> exact deferredOk_congr (by simp) (by simp) h

/-! ### The writes -/

theorem writeRate_deferredOk (c : BitVec 2) {s : State} (h : DeferredOk s) : DeferredOk (writeRate c s) := by
  unfold writeRate
  repeat' split
  all_goals exact deferredOk_congr rfl rfl h

/-- A write of WDAT that is taken reaches neither the deferred queue nor the waiting commands. -/
theorem writeArea_frame {v : Byte} {s t : State} (ht : writeArea v s = some t) :
    t.mu.queue = s.mu.queue ∧ t.pending = s.pending := by
  unfold writeArea at ht
  split at ht
  · unfold writeModule at ht
    split at ht
    · cases ht
    · dsimp only at ht
      split at ht
      · obtain ⟨-, ⟨⟩⟩ := Option.ite_none_right_eq_some.1 ht
        exact ⟨rfl, rfl⟩
      · obtain ⟨-, ⟨⟩⟩ := Option.ite_none_left_eq_some.1 ht
        exact ⟨rfl, rfl⟩
      · cases ht
  · unfold writeLocalPage at ht
    split at ht
    · obtain ⟨p, -, rfl⟩ := Option.map_eq_some_iff.1 ht
      exact ⟨rfl, rfl⟩
    · cases ht
  · obtain ⟨-, ⟨⟩⟩ := Option.ite_none_right_eq_some.1 ht
    exact ⟨rfl, rfl⟩
  · unfold writeFilter at ht
    split at ht
    · cases ht
      exact ⟨rfl, rfl⟩
    · cases ht
  · obtain ⟨g, -, rfl⟩ := Option.map_eq_some_iff.1 ht
    exact ⟨rfl, rfl⟩
  · unfold writeParam at ht
    split at ht
    case h_7 => cases ht
    all_goals
      obtain ⟨-, ⟨⟩⟩ := Option.ite_none_right_eq_some.1 ht
      exact ⟨rfl, rfl⟩
  all_goals cases ht

theorem writeArea_deferredOk {s t : State} (v : Byte) (h : DeferredOk s) (ht : writeArea v s = some t) :
    DeferredOk t := by
  refine deferredOk_congr (writeArea_frame ht).1 ?_ h
  rcases writeArea_link ht with hl | hl | ⟨-, hl⟩ <;> rw [hl]

/-! ### The line and the time -/

theorem lineFault_deferredOk (c : FaultCause) {s : State} (h : DeferredOk s) : DeferredOk (lineFault c s) := by
  unfold lineFault
  repeat' split
  all_goals exact deferredOk_congr (by simp) (by simp [takeFault_link]) h

theorem afterWork_deferredOk {s : State} (h : DeferredOk s) : DeferredOk (afterWork s) :=
  deferredOk_shrink (afterWork_part s) (afterWork_current s) h

theorem lineRestored_deferredOk {s : State} (h : DeferredOk s) : DeferredOk (lineRestored s) := by
  have hp : DeferredOk (post .lineRestored 0 0 s) := deferredOk_congr (by simp) (by simp) h
  unfold lineRestored
  split
  · split
    · unfold leaveFault
      repeat' split
      · exact deferredOk_congr rfl rfl hp
      · exact deferredOk_congr rfl rfl hp
      · exact afterWork_deferredOk hp
    · exact h
  all_goals exact h

theorem quietTimeRestart_deferredOk (c : QuietBreak) {s : State} (h : DeferredOk s) :
    DeferredOk (quietTimeRestart c s) := by
  unfold quietTimeRestart breakPins
  repeat' split
  all_goals exact deferredOk_congr rfl rfl h

theorem linkTick_current (lfltn rxd : Level) (l : LinkEngine) : (l.tick lfltn rxd).current = l.current := by
  unfold LinkEngine.tick
  split <;> rfl

/-- A tick ages the entries within their bound and leaves each its slot. -/
theorem msTick_deferredOk (lfltn rxd : Level) {s : State} (h : DeferredOk s) : DeferredOk (msTick lfltn rxd s) := by
  obtain ⟨hh, hs, hf, ha⟩ := h
  obtain ⟨gh, gs, ga⟩ := tick_queueOk s.mu.timeout ⟨hh, hs, ha⟩
  refine ⟨gh, gs, fun i hi => ?_, ga⟩
  have hfree : s.deferredOf i = none := hf i (by
    obtain ⟨c, hc, hk⟩ := hi
    exact ⟨c, (linkTick_current lfltn rxd s.link) ▸ hc, hk⟩)
  have hslot : ∀ d : Deferred, (d.tick s.mu.timeout).slot = d.slot := fun d => by
    unfold Deferred.tick
    split <;> rfl
  unfold State.deferredOf at hfree ⊢
  rw [List.find?_eq_none] at hfree ⊢
  intro d hd
  obtain ⟨x, hx, rfl⟩ := List.mem_map.1 (show d ∈ s.mu.queue.map (Deferred.tick s.mu.timeout) from hd)
  rw [hslot]
  exact hfree x hx

theorem callSent_deferredOk {s : State} (h : DeferredOk s) : DeferredOk (callSent s) := by
  unfold callSent
  repeat' split
  all_goals exact deferredOk_congr rfl rfl h

theorem replyStartBit_deferredOk {s : State} (h : DeferredOk s) : DeferredOk (replyStartBit s) := by
  unfold replyStartBit
  split <;> exact deferredOk_congr rfl rfl h

theorem retryGapEnd_deferredOk {s : State} (h : DeferredOk s) : DeferredOk (retryGapEnd s) := by
  unfold retryGapEnd
  split <;> exact deferredOk_congr rfl rfl h

theorem broadcastEnd_deferredOk {s : State} (h : DeferredOk s) : DeferredOk (broadcastEnd s) := by
  unfold broadcastEnd
  split
  · exact afterWork_deferredOk h
  all_goals exact h

/-- A reset leaves no entry and no call. -/
theorem deferredOk_of_empty {s : State} (hq : s.mu.queue = []) (hc : s.link.current = none) : DeferredOk s :=
  deferredOk_congr (s := State.reset) hq hc deferredOk_reset

theorem kept_deferredOk : Kept DeferredOk where
  pending _ h := h
  pins _ h := h
  win _ _ h := h
  holding _ h := h
  enableLink l := enableLink_deferredOk l
  disableLink := disableLink_deferredOk
  restartLink := restartLink_deferredOk
  submit := submit_deferredOk
  cancel := cancel_deferredOk
  popCompletion := popCompletion_deferredOk
  verdict := verdict_deferredOk
  popNotice := popNotice_deferredOk
  detachSlot i := detachSlot_deferredOk i
  releaseSlot i := releaseSlot_deferredOk i
  renegotiateSlot i := renegotiateSlot_deferredOk i
  softReset _ := deferredOk_of_empty rfl rfl
  pinReset _ := deferredOk_of_empty rfl rfl
  writeRate c := writeRate_deferredOk c
  writeArea v := writeArea_deferredOk v
  lineFault c := lineFault_deferredOk c
  lineRestored := lineRestored_deferredOk
  quietTimeRestart c := quietTimeRestart_deferredOk c
  msTick l r := msTick_deferredOk l r
  updActive _ _ _ := deferredOk_congr rfl rfl
  expireCommands := deferredOk_congr (by simp) (by simp)
  timeOutAll := deferredOk_shrink (timeOutFold_part _ _) (by simp)
  chooseCall := chooseCall_deferredOk
  callSent := callSent_deferredOk
  replyStartBit := replyStartBit_deferredOk
  retryGapEnd := retryGapEnd_deferredOk
  endAttempt o _ := endAttempt_deferredOk o
  broadcastEnd := broadcastEnd_deferredOk

/-- Settles O59: the deferred queue is kept by every operation, so by every step. -/
theorem stepKeepsDeferredOk : Obligations.StepKeepsDeferredOk := fun _ _ h hs => kept_deferredOk.step h hs

end Sys2Proof.Machine
end

section
/-! ## Every command completes (O2)

What each meaning leaves of the queue of waiting commands, and what RESETN low leaves of each command. -/

namespace Sys2Proof.Machine

/-- Operations that leave the queue of waiting commands alone. -/
def PendingKept (f : State → State) : Prop := ∀ s, (f s).pending = s.pending

theorem whileRunning_pending {f : State → State} (hf : PendingKept f) : PendingKept (whileRunning f) := fun s => by
  unfold whileRunning
  split
  · exact hf s
  · rfl

/-! ### The actions -/

/-- An action whose effect leaves the queue alone. -/
def ActionKeepsPending (f : State → State × ActionResult) : Prop := ∀ s, (f s).1.pending = s.pending

theorem runAction_pending (code : Byte) {f : State → State × ActionResult} (hf : ActionKeepsPending f) :
    PendingKept (runAction code f) := hf

theorem onSlot_pending {f : Slot → State → State × ActionResult} (hf : ∀ i, ActionKeepsPending (f i)) :
    ActionKeepsPending (onSlot f) := fun s => by
  unfold onSlot
  split
  · rfl
  · exact hf _ s

theorem enableLink_pending (l : Level) : ActionKeepsPending (enableLink l) := fun s => by
  unfold enableLink
  repeat' split
  all_goals simp

theorem disableLink_pending : ActionKeepsPending disableLink := fun s => by
  unfold disableLink
  repeat' split
  all_goals rfl

theorem restartLink_pending : ActionKeepsPending restartLink := fun s => by
  unfold restartLink
  split <;> simp

theorem submit_pending : ActionKeepsPending submit := fun s => by
  unfold submit
  split <;> rfl

theorem cancel_pending : ActionKeepsPending cancel := fun s => by
  unfold cancel cancelFound
  split <;> simp

theorem popCompletion_pending : ActionKeepsPending popCompletion := fun s => by
  unfold popCompletion
  split <;> rfl

theorem judgeVerdict_pending (g : Handle) (generation : Byte) (v : VerdictCode × Byte) :
    ActionKeepsPending (judgeVerdict g generation v) := fun s => by
  unfold judgeVerdict
  split
  · rfl
  split
  · rfl
  split
  · rfl
  · exact decideEntry_pending _ _ s

theorem verdict_pending : ActionKeepsPending verdict := fun s => by
  unfold verdict
  split
  · rfl
  split
  · rfl
  · exact judgeVerdict_pending _ _ _ s

theorem popNotice_pending : ActionKeepsPending popNotice := fun s => by
  unfold popNotice
  repeat' split
  all_goals rfl

theorem detachSlot_pending (i : Slot) : ActionKeepsPending (detachSlot i) := fun s => by
  unfold detachSlot
  split <;> simp

theorem releaseSlot_pending (i : Slot) : ActionKeepsPending (releaseSlot i) := fun s => by
  unfold releaseSlot
  split <;> simp

theorem renegotiateSlot_pending (i : Slot) : ActionKeepsPending (renegotiateSlot i) := fun s => by
  unfold renegotiateSlot
  split <;> simp

theorem actionOf_pending (code : Byte) (l : Level) : ActionKeepsPending (actionOf code l) := fun s => by
  unfold actionOf
  split
  · exact enableLink_pending l s
  · exact disableLink_pending s
  · exact restartLink_pending s
  · exact submit_pending s
  · exact cancel_pending s
  · exact popCompletion_pending s
  · exact verdict_pending s
  · exact popNotice_pending s
  · exact onSlot_pending detachSlot_pending s
  · exact onSlot_pending releaseSlot_pending s
  · exact onSlot_pending renegotiateSlot_pending s
  · rfl

theorem writeAct_pending (code : Byte) : PendingKept (writeAct code) := fun s => actionOf_pending code s.pins.lfltn s

/-! ### The writes to the other registers -/

theorem writeRate_pending (c : BitVec 2) : PendingKept (writeRate c) := fun s => by
  unfold writeRate
  repeat' split
  all_goals rfl

theorem takeCopy_pending : PendingKept takeCopy := fun s => by
  unfold takeCopy
  split <;> rfl

theorem writeWsel_pending (v : Byte) : PendingKept (writeWsel v) := fun s => by
  unfold writeWsel
  split
  · rfl
  · exact takeCopy_pending _

theorem writeWidx_pending (v : Byte) : PendingKept (writeWidx v) := fun s =>
  takeCopy_pending { s with win := { s.win with widx := v, offset := 0 } }

theorem writeWdat_pending (v : Byte) : PendingKept (writeWdat v) := fun s => by
  unfold writeWdat
  rw [stepOffset_pending]
  cases ha : writeArea v s with
  | none => rfl
  | some t => exact (writeArea_frame ha).2

theorem writeRegister_pending (address : BitVec 6) (v : Byte) : PendingKept (writeRegister address v) := fun s => by
  unfold writeRegister
  split
  · split
    · rfl
    · exact writeRate_pending _ s
  · split <;> rfl
  · rfl
  · exact writeAct_pending v s
  · rfl
  · rfl
  · rfl
  · rfl
  · exact writeWsel_pending v s
  · exact writeWidx_pending v s
  · rfl
  · exact writeWdat_pending v s
  · rfl

/-! ### The line -/

theorem faultPins_pending (c : FaultCause) : PendingKept (faultPins c) := fun s => by
  cases c <;> rfl

theorem lineFault_pending (c : FaultCause) : PendingKept (lineFault c) := fun s => by
  unfold lineFault
  repeat' split
  all_goals simp

theorem leaveFault_pending : PendingKept leaveFault := fun s => by
  unfold leaveFault
  repeat' split
  all_goals simp

theorem lineRestored_pending : PendingKept lineRestored := fun s => by
  unfold lineRestored
  repeat' split
  case h_1.isTrue => simp [leaveFault_pending _]
  all_goals rfl

theorem quietTimeRestart_pending (c : QuietBreak) : PendingKept (quietTimeRestart c) := fun s => by
  unfold quietTimeRestart
  split
  · cases c <;> rfl
  all_goals rfl

theorem callSent_pending : PendingKept callSent := fun s => by
  unfold callSent
  repeat' split
  all_goals rfl

theorem replyStartBit_pending : PendingKept replyStartBit := fun s => by
  unfold replyStartBit
  split <;> rfl

theorem retryGapEnd_pending : PendingKept retryGapEnd := fun s => by
  unfold retryGapEnd
  split <;> rfl

theorem replyWindowExpiry_pending : PendingKept replyWindowExpiry := fun s => by
  unfold replyWindowExpiry
  split <;> simp

theorem replyFrameEnd_pending (first : Samples) (rest : List Samples) : PendingKept (replyFrameEnd first rest) :=
  fun s => by
    unfold replyFrameEnd
    split <;> simp

theorem receptionLimit_pending : PendingKept receptionLimit := fun s => by
  unfold receptionLimit
  split <;> simp

theorem broadcastEnd_pending : PendingKept broadcastEnd := fun s => by
  unfold broadcastEnd
  split <;> simp

/-! ### A command -/

/-- A command that acts only while RESETN is high answers a next state, with the queue its meaning leaves. -/
theorem completes_of_whileRunning {f : State → State} (hf : PendingKept f) (s : State) :
    ∃ t, (.next (whileRunning f s) : Host.Outcome State Fault Refusal) = .next t ∧ t.pending = s.pending :=
  ⟨_, rfl, whileRunning_pending hf s⟩

theorem exec_completes (i : Instr) (s : State) : ∃ t, exec i s = .next t ∧ t.pending = s.pending := by
  cases i with
  | enableLink l =>
    exact completes_of_whileRunning (f := fun s => runAction 0x01 (enableLink l) (recordLfltn l s))
      (fun s => enableLink_pending l (recordLfltn l s)) s
  | disableLink => exact completes_of_whileRunning (runAction_pending _ disableLink_pending) s
  | restartLink => exact completes_of_whileRunning (runAction_pending _ restartLink_pending) s
  | submit => exact completes_of_whileRunning (runAction_pending _ submit_pending) s
  | cancel => exact completes_of_whileRunning (runAction_pending _ cancel_pending) s
  | popCompletion => exact completes_of_whileRunning (runAction_pending _ popCompletion_pending) s
  | verdict => exact completes_of_whileRunning (runAction_pending _ verdict_pending) s
  | popNotice => exact completes_of_whileRunning (runAction_pending _ popNotice_pending) s
  | detach => exact completes_of_whileRunning (runAction_pending _ (onSlot_pending detachSlot_pending)) s
  | release => exact completes_of_whileRunning (runAction_pending _ (onSlot_pending releaseSlot_pending)) s
  | renegotiate => exact completes_of_whileRunning (runAction_pending _ (onSlot_pending renegotiateSlot_pending)) s
  | unknownAction code => exact completes_of_whileRunning (writeAct_pending code) s
  | softReset _ => exact completes_of_whileRunning softReset_pending s
  | rateCodeWrite _ => exact completes_of_whileRunning (writeRate_pending _) s
  | accessRefusedClear _ => exact completes_of_whileRunning clearRefused_pending s
  | ienWrite v => exact completes_of_whileRunning (writeIen_pending v) s
  | wselWrite v => exact completes_of_whileRunning (writeWsel_pending v) s
  | widxWrite v => exact completes_of_whileRunning (writeWidx_pending v) s
  | woffWrite v => exact completes_of_whileRunning (writeWoff_pending v) s
  | wdatRead =>
    change ∃ t, execWdatRead s = .next t ∧ _
    unfold execWdatRead
    split <;> exact ⟨_, rfl, rfl⟩
  | wdatWrite v => exact completes_of_whileRunning (writeWdat_pending v) s
  | mscountLowRead =>
    change ∃ t, execMscountLowRead s = .next t ∧ _
    unfold execMscountLowRead
    split <;> exact ⟨_, rfl, rfl⟩
  | registerWrite a v => exact completes_of_whileRunning (writeRegister_pending a v) s
  | pinReset => exact ⟨_, rfl, rfl⟩
  | lineFault c =>
    exact completes_of_whileRunning (fun s => (lineFault_pending c _).trans (faultPins_pending c s)) s
  | lineRestored => exact completes_of_whileRunning lineRestored_pending s
  | msTick l r => exact completes_of_whileRunning (msTick_pending l r) s
  | pollDue i => exact completes_of_whileRunning (updEntry_pending i _) s
  | pollOverdue i => exact completes_of_whileRunning (updEntry_pending i _) s
  | censusIntervalElapsed => exact ⟨_, rfl, rfl⟩
  | holdEnd _ => exact ⟨_, rfl, rfl⟩
  | commandExpiry => exact completes_of_whileRunning expireCommands_pending s
  | verdictTimeout => exact completes_of_whileRunning timeOutAll_pending s
  | callChoice => exact completes_of_whileRunning chooseCall_pending s
  | callSent => exact completes_of_whileRunning callSent_pending s
  | replyWindowExpiry => exact completes_of_whileRunning replyWindowExpiry_pending s
  | retryGapEnd => exact completes_of_whileRunning retryGapEnd_pending s
  | replyFrameEnd first rest => exact completes_of_whileRunning (replyFrameEnd_pending first rest) s
  | receptionLimit => exact completes_of_whileRunning receptionLimit_pending s
  | broadcastEnd => exact completes_of_whileRunning broadcastEnd_pending s
  | replyStartBit => exact completes_of_whileRunning replyStartBit_pending s
  | quietTimeRestart c => exact completes_of_whileRunning (quietTimeRestart_pending c) s
  | pinResetEnd => exact ⟨_, rfl, rfl⟩

/-! ### RESETN low -/

/-- The two reads drive 0 while RESETN is low (R172). -/
theorem exec_read_low {i : Instr} {s : State} (h : s.pins.resetn = .low) (hi : i = .wdatRead ∨ i = .mscountLowRead) :
    exec i s = .next { s with pins := { s.pins with readData := 0 } } := by
  rcases hi with rfl | rfl
  · change execWdatRead s = _
    unfold execWdatRead
    rw [h]
    rfl
  · change execMscountLowRead s = _
    unfold execMscountLowRead
    rw [h]
    rfl

/-- Every other command but the pin's own does nothing while RESETN is low (R172, R87). -/
theorem exec_low {i : Instr} {s : State} (h : s.pins.resetn = .low) (hr : i ≠ .pinReset) (he : i ≠ .pinResetEnd)
    (hi : ¬ (i = .wdatRead ∨ i = .mscountLowRead)) : exec i s = .next s := by
  cases i
  case pinReset => exact absurd rfl hr
  case pinResetEnd => exact absurd rfl he
  case wdatRead => exact absurd (Or.inl rfl) hi
  case mscountLowRead => exact absurd (Or.inr rfl) hi
  case censusIntervalElapsed => rfl
  case holdEnd => rfl
  all_goals exact congrArg Host.Outcome.next (whileRunning_low _ s h)

/-- Settles O2: what each command answers, and what RESETN low leaves of it. -/
theorem commandsComplete : Obligations.CommandsComplete := by
  refine ⟨exec_completes, fun i s h hr he => ?_⟩
  split
  next hi => exact exec_read_low h hi
  next hi => exact exec_low h hr he hi

end Sys2Proof.Machine
end

section
/-! ## The start of a command (O21) -/

namespace Sys2Proof.Machine

/-! ### The command the engine names (R112) -/

/-- What keeps a queued command from being named (R112, R125). -/
def State.NotReady (s : State) (x : QueuedCommand) : Prop :=
  x.settled ≠ none ∨ (s.entry x.held.cmd.target).active? = none ∨ (s.entry x.held.cmd.target).hold ≠ 0 ∨
    (s.entry x.held.cmd.target).outstanding? ≠ none ∨ (s.entry x.held.cmd.target).verdictOwed ≠ none

/-- The start conditions of an unsettled command on the state of its target. -/
theorem not_notReady {s : State} {x : QueuedCommand} {d : ActiveData} (hx : x.settled = none)
    (ha : (s.entry x.held.cmd.target).active? = some d) (ho : (s.entry x.held.cmd.target).outstanding? = none)
    (hh : (s.entry x.held.cmd.target).hold = 0) (hv : (s.entry x.held.cmd.target).verdictOwed = none) :
    ¬ s.NotReady x := by
  simp [State.NotReady, hx, ha, ho, hh, hv]

theorem isCandidate_of_notReady {s : State} {x : QueuedCommand} (h : s.NotReady x) : s.isCandidate x = false := by
  rw [← Bool.not_eq_true]
  intro hc
  obtain ⟨hset, hact, hhold, hout, howed, -⟩ := ready_of_isCandidate hc
  rcases h with h | h | h | h | h
  · exact h hset
  · simp [Entry.isActive, h] at hact
  · exact h hhold
  · exact h hout
  · exact h howed

section
variable {s : State} {before after : List QueuedCommand} {q : QueuedCommand}
  (hq : s.ce.queue = before ++ q :: after) (hb : ∀ x ∈ before, s.NotReady x)
include hq hb

/-- No older unsettled command goes to the target of a ready command: it would be ready too. -/
theorem oldestTo_of_ready (hset : q.settled = none) (hr : ¬ s.NotReady q) :
    s.oldestTo q.held.cmd.target = some q := by
  have hnone : before.find? (fun x => x.settled.isNone && x.held.cmd.target == q.held.cmd.target) = none := by
    rw [List.find?_eq_none]
    intro x hx hp
    simp only [Bool.and_eq_true, Option.isNone_iff_eq_none, beq_iff_eq] at hp
    obtain ⟨hxs, hxt⟩ := hp
    refine hr (?_ : s.NotReady q)
    have h := hb x hx
    unfold State.NotReady at h ⊢
    rw [hxt, hxs] at h
    rw [hset]
    exact h
  rw [State.oldestTo, hq, List.find?_append, hnone]
  simp [hset]

/-- The oldest ready command is the one the engine names, while the reservation has room (R112, R114). -/
theorem startable_of_oldest {d : ActiveData} (hset : q.settled = none)
    (ha : (s.entry q.held.cmd.target).active? = some d) (ho : (s.entry q.held.cmd.target).outstanding? = none)
    (hh : (s.entry q.held.cmd.target).hold = 0) (hv : (s.entry q.held.cmd.target).verdictOwed = none)
    (hr : s.reservation < 16) : s.startable = some q := by
  have hc : s.isCandidate q = true := by
    have hold := oldestTo_of_ready hq hb hset (not_notReady hset ha ho hh hv)
    simp [State.isCandidate, Entry.readyForCommand, Entry.isActive, Config.completionPlaces, hold, hset, ha, ho, hh, hv,
      hr]
  have hnone : before.find? s.isCandidate = none := by
    rw [List.find?_eq_none]
    intro x hx
    rw [isCandidate_of_notReady (hb x hx)]
    exact Bool.false_ne_true
  rw [State.startable, hq, List.find?_append, hnone]
  simp [hc]

end

/-! ### The class and the call -/

/-- With no work in the first four classes, the command the engine names is the choice (R91, R96). -/
theorem nextWork_command {s : State} {q : QueuedCommand}
    (hi : ∀ i, (s.entry i).releaseOwed = false ∧ (s.entry i).context? = none ∧ (s.entry i).standingIs .overdue = false)
    (ho : ∀ i ∈ s.sched.owed, (s.entry i).active? = none) (hs : s.startable = some q) :
    s.nextWork = some (.command q) := by
  have hover : s.overdueWork = none := by
    rw [State.overdueWork, find_allSlots_eq_none.2 fun i => (hi i).2.2]
    rfl
  simp [State.nextWork, releaseWork_eq_none fun i => (hi i).1, verdictWork_eq_none ho,
    negotiationWork_eq_none fun i => (hi i).2.1, hover, State.commandWork, hs]

/-- A command leaves the queue by its place (R113). -/
theorem eraseP_place {before after : List QueuedCommand} {q : QueuedCommand}
    (hb : ∀ x ∈ before, x.held.place ≠ q.held.place) :
    (before ++ q :: after).eraseP (fun x => x.held.place == q.held.place) = before ++ after := by
  rw [List.eraseP_append_right _ (by simpa using hb), List.eraseP_cons_of_pos (by simp)]

/-- The start of a command as one write (R113). -/
theorem startCommand_eq {s : State} (hp : s.link.stopPending = false) {before after : List QueuedCommand}
    {q : QueuedCommand} (hq : s.ce.queue = before ++ q :: after) (hb : ∀ x ∈ before, x.held.place ≠ q.held.place) :
    startCommand q s =
      { s with
        table := s.table.set q.held.cmd.target.val
          { s.entry q.held.cmd.target with seqBit := !(s.entry q.held.cmd.target).seqBit }
        ce := { s.ce with queue := before ++ after, inFlight := some ⟨q.held, []⟩ }
        link :=
          { s.link with
            state := .sending, activity := .transmitting, attempt := 1, window := none
            current := some (q.held.cmd.call !(s.entry q.held.cmd.target).seqBit) } } := by
  unfold startCommand
  dsimp only
  rw [handIn_eq (by exact hp), updEntry_ce, hq, eraseP_place hb]
  rfl

/-- Settles O21: the command the engine names is the choice, and its start is one write. -/
theorem commandStart : Obligations.CommandStart := by
  intro s before after q d h hidle hp hi howed hq hset hb ha hd hh hv hr
  have ho : (s.entry q.held.cmd.target).outstanding? = none := by
    rw [outstanding_of_active (active_iff.1 ha), hd]
  have hs := startable_of_oldest hq (fun x hx => (hb x hx).2) hset ha ho hh hv hr
  rw [exec_callChoice h, chooseCall_of_some hidle (nextWork_command hi howed hs)]
  exact congrArg Host.Outcome.next (startCommand_eq hp hq fun x hx => (hb x hx).1)

end Sys2Proof.Machine
end

section
/-! ## Owed verdicts and the controller's own message classes (O23) -/

namespace Sys2Proof.Machine

/-- A verdict becomes owed (R143): the entry's two fields are written and the slot joins the owed order. -/
theorem oweVerdict_eq (k : Slot) (v : Verdict) (request : Bool) (s : State) :
    oweVerdict k v request s =
      { s with
        table := s.table.set k.val { s.entry k with verdictOwed := some ⟨v, request⟩, lastVerdict := some v }
        sched := { s.sched with owed := if k ∈ s.sched.owed then s.sched.owed else s.sched.owed ++ [k] } } := by
  unfold oweVerdict State.updEntry State.setEntry
  simp only [List.contains_eq_mem, decide_eq_true_eq]

/-! ### A new message at an ACTIVE entry -/

/-- The state after the MESSAGE_GAP, if any, of a message with a number (R139). -/
def State.told (s : State) (k : Slot) (number : BitVec 4) : State :=
  match (s.entry k).lastNumber with
  | none => s
  | some n => if number = n + 1 then s else post .messageGap (slotByte k) (0#4 ++ number) s

/-- The entry as a new message of an ACTIVE module leaves it before it is judged (R103, R139). -/
def Entry.judged (e : Entry) (number : BitVec 4) : Entry := { e with missCount := 0, lastNumber := some number }

section
variable {s : State} {k : Slot} {number : BitVec 4}

theorem told_table : (s.told k number).table = s.table := by
  unfold State.told
  repeat' split
  all_goals simp

theorem told_ce : (s.told k number).ce = s.ce := by
  unfold State.told
  repeat' split
  all_goals simp

/-- A new message is judged by its class after its gap, its number and the clearing of misses (R138, R140). -/
theorem deliverFetch_new {d : ActiveData} (hs : (s.entry k).state = .active d)
    (hn : (s.entry k).lastNumber ≠ some number) (cls : Byte) (data : List Byte) (q : Bool) :
    deliverFetch k (.reply (.message cls number data) q) s =
      judgeClass k cls number data q ((s.told k number).setEntry k ((s.entry k).judged number)) := by
  have hn' : ((clearMisses k s).entry k).lastNumber ≠ some number := by
    rw [clearMisses, entry_updEntry_same]
    exact hn
  rw [deliverFetch_message hs, judgeMessage, if_neg hn', postGap_clearMisses]
  rfl

end

/-! ### The classes (Table 6-1) -/

theorem updEntry_setEntry (k : Slot) (e : Entry) (f : Entry → Entry) (s : State) :
    (s.setEntry k e).updEntry k f = s.setEntry k (f e) := by
  rw [State.updEntry, setEntry_setEntry, entry_setEntry_same]

section
variable (k : Slot) (number : BitVec 4) (data : List Byte) (q : Bool) (s : State)

theorem judgeClass_hold : judgeClass k 1 number data q s = judgeHold k number data s := rfl

theorem judgeClass_lateResult : judgeClass k 2 number data q s = judgeLateResult k number data q s := rfl

theorem judgeClass_renegotiate : judgeClass k 3 number data q s = oweVerdict k ⟨number, .accept, 0⟩ true s := rfl

/-- HOLD with data sets hold remaining (R141). -/
theorem judgeHold_cons (b : Byte) (rest : List Byte) (e : Entry) :
    judgeHold k number (b :: rest) (s.setEntry k e) =
      oweVerdict k ⟨number, .accept, 0⟩ false (s.setEntry k { e with hold := b }) :=
  congrArg (oweVerdict k ⟨number, .accept, 0⟩ false) (updEntry_setEntry k e (fun e => { e with hold := b }) s)

end

/-- The entry's outstanding command is the one the late result is for (R121). -/
theorem lateMatches_iff {s : State} {k : Slot} {d : ActiveData} (hs : (s.entry k).state = .active d) (q : Bool)
    (data : List Byte) :
    s.lateMatches k q data = true ↔ ∃ o, d.outstanding = some o ∧ o.seq = q ∧ data.length ≤ 24 := by
  unfold State.lateMatches
  rw [outstanding_of_active hs]
  cases d.outstanding with
  | none => simp
  | some o =>
    simp only [Bool.and_eq_true, beq_iff_eq, decide_eq_true_eq, Option.some.injEq, exists_eq_left']
    exact Iff.rfl

/-- A late result that matches ends the outstanding command OK (R121). -/
theorem judgeLateResult_match {s : State} {k : Slot} {d : ActiveData} {o : Outstanding} {q : Bool} {data : List Byte}
    (hs : (s.entry k).state = .active d) (ho : d.outstanding = some o) (hq : o.seq = q) (hl : data.length ≤ 24)
    (number : BitVec 4) :
    judgeLateResult k number data q s =
      oweVerdict k ⟨number, .accept, 0⟩ false
        { s with
          table := s.table.set k.val { s.entry k with state := .active { d with outstanding := none } }
          ce := { s.ce with completions := s.ce.completions ++
            [⟨o.held.cmd.tag, o.held.cmd.target, o.held.cmd.code, .ok, 0, data⟩] } } := by
  rw [judgeLateResult, if_pos ((lateMatches_iff hs q data).2 ⟨o, ho, hq, hl⟩), completeOutstanding_eq,
    outstanding_of_active hs, ho, Entry.setOutstanding, updActive_of_state _ hs]
  rfl

/-- A late result that matches nothing is stale (R142). -/
theorem judgeLateResult_stale {s : State} {k : Slot} {d : ActiveData} {q : Bool} {data : List Byte}
    (hs : (s.entry k).state = .active d) (hn : ∀ o, d.outstanding = some o → o.seq ≠ q ∨ 24 < data.length)
    (number : BitVec 4) :
    judgeLateResult k number data q s =
      post .lateStale (slotByte k) 0 (oweVerdict k ⟨number, .reject, 0xF1⟩ false s) := by
  have hm : ¬ s.lateMatches k q data = true := by
    rw [lateMatches_iff hs]
    rintro ⟨o, ho, hq, hl⟩
    rcases hn o ho with h | h
    · exact h hq
    · omega
  rw [judgeLateResult, if_neg hm]
  rfl

/-- Settles O23: making a verdict owed, and each class by what judges it. -/
theorem controllerMessageClasses : Obligations.ControllerMessageClasses := by
  refine ⟨oweVerdict_eq, fun i c s cls number data q d h hk hs hn => ?_⟩
  have hx := (exec_fetch_end h hk).trans
    (congrArg (fun t => Host.Outcome.next (finishExchange t)) (deliverFetch_new hs hn cls data q))
  have hj : (((s.told c.slot number).setEntry c.slot ((s.entry c.slot).judged number)).entry c.slot).state =
      .active d := by
    rw [entry_setEntry_same]
    exact hs
  refine ⟨?_, ?_, ?_, ?_, ?_⟩
  · rintro b rest rfl rfl
    rw [hx, judgeClass_hold, judgeHold_cons]
    rfl
  · rintro rfl rfl
    exact hx
  · rintro o rfl ho hq hl
    rw [hx, judgeClass_lateResult, judgeLateResult_match hj ho hq hl, setEntry_table, entry_setEntry_same, setEntry_ce,
      told_table, told_ce]
    simp only [Vector.set_set]
    rfl
  · rintro rfl ho
    rw [hx, judgeClass_lateResult, judgeLateResult_stale hj ho]
    rfl
  · rintro rfl
    exact hx

end Sys2Proof.Machine
end

section
/-! ## The verdict timeout (O25)

VERDICT_TIMEOUT folds `timeOut` over the entries that fall. Each part of the state after the fold is stated for any
list of entries; the claim is their reading at the entries that fall, whose handles and slots are distinct. -/

namespace Sys2Proof.Machine

theorem exec_verdictTimeout {s : State} (h : s.Running) : exec .verdictTimeout s = .next (timeOutAll s) :=
  congrArg Host.Outcome.next (whileRunning_running h)

/-- A tick has brought the OPEN entry to the timeout (R154). -/
def Deferred.falls (d : Deferred) : Bool := d.timeoutReached && d.decision.isNone

/-- The entry decided by the timeout (R154). -/
def Deferred.timedOut (d : Deferred) : Deferred := { d with decision := some ⟨.reject, 0xF2, .timeout⟩ }

/-- The entry of a slot whose message the timeout rejects (R143, R154). -/
def Entry.timedOut (e : Entry) (number : BitVec 4) : Entry :=
  { e with verdictOwed := some ⟨⟨number, .reject, 0xF2⟩, false⟩, lastVerdict := some ⟨number, .reject, 0xF2⟩ }

theorem timeOutAll_eq (s : State) : timeOutAll s = (s.mu.queue.filter Deferred.falls).foldl timeOut s := rfl

/-! ### One entry -/

theorem timeOut_mu (s : State) (d : Deferred) :
    (timeOut s d).mu =
      { s.mu with queue := s.mu.queue.map fun x => if x.handle == d.handle then x.timedOut else x } := by
  rw [timeOut, post_mu]
  rfl

theorem timeOut_entry (s : State) (d : Deferred) (k : Slot) :
    (timeOut s d).entry k = if k = d.slot then (s.entry d.slot).timedOut d.number else s.entry k := by
  rw [timeOut, post_entry, decideEntry_entry]
  rfl

theorem timeOut_nq (s : State) (d : Deferred) :
    (timeOut s d).nq = (post .verdictTimeout (slotByte d.slot) (handleByte d.handle) s).nq :=
  post_nq_congr _ _ _ rfl rfl

theorem timeOut_sched (s : State) (d : Deferred) :
    (timeOut s d).sched =
      { s.sched with owed := if d.slot ∈ s.sched.owed then s.sched.owed else s.sched.owed ++ [d.slot] } := by
  rw [timeOut, post_sched, decideEntry, oweVerdict_eq]

/-! ### The entries of a list, one after another -/

theorem timeOutFold_mu (l : List Deferred) (s : State) :
    (l.foldl timeOut s).mu =
      { s.mu with queue := s.mu.queue.map fun x => if x.handle ∈ l.map Deferred.handle then x.timedOut else x } := by
  induction l generalizing s with
  | nil => simp
  | cons d l ih =>
    rw [List.foldl_cons, ih, timeOut_mu]
    simp only [List.map_map]
    congr 1
    refine List.map_congr_left fun x _ => ?_
    by_cases hd : x.handle = d.handle
    · simp [hd, Deferred.timedOut]
    · simp [hd]

theorem timeOutFold_entry_of_not_mem {l : List Deferred} {k : Slot} (hk : ∀ d ∈ l, d.slot ≠ k) (s : State) :
    (l.foldl timeOut s).entry k = s.entry k := by
  induction l generalizing s with
  | nil => rfl
  | cons d l ih =>
    obtain ⟨hd, hl⟩ := List.forall_mem_cons.1 hk
    rw [List.foldl_cons, ih hl, timeOut_entry, if_neg hd.symm]

/-- With distinct slots each entry's slot is written once, with that entry's number. -/
theorem timeOutFold_entry_of_mem {l : List Deferred} (hl : (l.map Deferred.slot).Nodup) {d : Deferred} (hd : d ∈ l)
    (s : State) : (l.foldl timeOut s).entry d.slot = (s.entry d.slot).timedOut d.number := by
  induction l generalizing s with
  | nil => cases hd
  | cons x l ih =>
    obtain ⟨hx, hnd⟩ := List.nodup_cons.1 hl
    have hne : ∀ y ∈ l, y.slot ≠ x.slot := fun y hy he => hx (he ▸ List.mem_map_of_mem hy)
    rw [List.foldl_cons]
    rcases List.mem_cons.1 hd with rfl | hd
    · rw [timeOutFold_entry_of_not_mem hne, timeOut_entry, if_pos rfl]
    · rw [ih hnd hd, timeOut_entry, if_neg (hne d hd)]

/-- The notices are those posted alone: making verdicts owed moves neither the notices nor MSCOUNT. -/
theorem timeOutFold_nq (l : List Deferred) {s u : State} (hn : s.nq = u.nq) (hm : s.sched.mscount = u.sched.mscount) :
    (l.foldl timeOut s).nq =
      (l.foldl (fun u d => post .verdictTimeout (slotByte d.slot) (handleByte d.handle) u) u).nq := by
  induction l generalizing s u with
  | nil => exact hn
  | cons d l ih =>
    rw [List.foldl_cons, List.foldl_cons]
    refine ih ((timeOut_nq s d).trans (post_nq_congr _ _ _ hn hm)) ?_
    rw [timeOut_sched, post_sched]
    exact hm

theorem timeOutFold_sched (l : List Deferred) (s : State) :
    (l.foldl timeOut s).sched =
      { s.sched with owed := l.foldl (fun o d => if d.slot ∈ o then o else o ++ [d.slot]) s.sched.owed } := by
  induction l generalizing s with
  | nil => rfl
  | cons d l ih => rw [List.foldl_cons, ih, timeOut_sched, List.foldl_cons]

/-- With distinct handles the entry of a handle that falls is the one that falls. -/
theorem handle_mem_filter_iff {q : List Deferred} (hq : (q.map Deferred.handle).Nodup) (p : Deferred → Bool)
    {x : Deferred} (hx : x ∈ q) : x.handle ∈ (q.filter p).map Deferred.handle ↔ p x = true := by
  refine ⟨fun h => ?_, fun h => List.mem_map_of_mem (List.mem_filter.2 ⟨hx, h⟩)⟩
  obtain ⟨y, hy, he⟩ := List.mem_map.1 h
  obtain ⟨hyq, hpy⟩ := List.mem_filter.1 hy
  exact List.inj_on_of_nodup_map hq hyq hx he ▸ hpy

/-- Settles O25: the fold over the entries that fall, part by part. -/
theorem verdictTimeout : Obligations.VerdictTimeout := by
  intro s h hh hs falls
  have hslots : ((s.mu.queue.filter Deferred.falls).map Deferred.slot).Nodup :=
    hs.sublist (List.filter_sublist.map _)
  refine ⟨timeOutAll s, exec_verdictTimeout h, ?_, fun d hd hf => ?_, fun k hk => ?_, timeOutFold_nq _ rfl rfl,
    timeOutFold_sched _ s, by simp, by simp, by simp, by simp, by simp, by simp⟩
  · rw [timeOutAll_eq, timeOutFold_mu]
    refine congrArg (fun q => ({ s.mu with queue := q } : MessageUnit)) (List.map_congr_left fun x hx => ?_)
    simp only [handle_mem_filter_iff hh Deferred.falls hx]
    rfl
  · exact timeOutFold_entry_of_mem hslots (List.mem_filter.2 ⟨hd, hf⟩) s
  · refine timeOutFold_entry_of_not_mem (fun d hd => ?_) s
    obtain ⟨hdq, hdf⟩ := List.mem_filter.1 hd
    exact hk d hdq hdf

end Sys2Proof.Machine
end

section
/-! ## The command and completion queues (O56)

The shared operations keep the reservation within 16 (Laws/Commands.lean). What is left is that every action, write and
event of the line is made of those, or leaves the commands and the entries' outstanding commands alone. -/

namespace Sys2Proof.Machine

/-- A smaller reservation and a queue no longer than before. -/
theorem commandsOk_of_le {s t : State} (hq : t.ce.queue.length ≤ s.ce.queue.length)
    (hr : t.reservation ≤ s.reservation) (h : CommandsOk s) : CommandsOk t :=
  ⟨hq.trans h.1, hr.trans h.2⟩

/-! ### The actions -/

theorem enableLink_commandsOk (l : Level) {s : State} (h : CommandsOk s) : CommandsOk (enableLink l s).1 := by
  unfold enableLink
  repeat' split
  all_goals exact commandsOk_congr (by simp) (by simp) h

theorem disableLink_commandsOk {s : State} (h : CommandsOk s) : CommandsOk (disableLink s).1 := by
  unfold disableLink
  repeat' split
  all_goals exact commandsOk_congr rfl rfl h

theorem restartLink_commandsOk {s : State} (h : CommandsOk s) : CommandsOk (restartLink s).1 := by
  unfold restartLink
  split
  · exact h
  · exact beginRestart_commandsOk h
  all_goals exact commandsOk_congr rfl rfl h

/-- A record that passes the checks finds a place in the queue (R109). -/
theorem queue_length_of_checkStaged {s : State} {i : Slot} (h : s.checkStaged = .ok i) : s.ce.queue.length < 16 := by
  unfold State.checkStaged at h
  repeat' split at h
  case isFalse hq => exact Nat.lt_of_not_le hq
  all_goals cases h

theorem submit_commandsOk {s : State} (h : CommandsOk s) : CommandsOk (submit s).1 := by
  unfold submit
  split
  next => exact h
  next i hi => exact acceptCommand_commandsOk _ h (queue_length_of_checkStaged hi)

theorem markInFlight_commandsOk (m : EndMark) {s : State} (h : CommandsOk s) : CommandsOk (markInFlight m s) := by
  refine commandsOk_of_le (s := s) (Nat.le_refl _) (Nat.le_of_eq ?_) h
  unfold State.reservation
  rw [outstandingCount_congr (markInFlight_table m s), markInFlight_ce]
  simp

theorem cancel_commandsOk {s : State} (h : CommandsOk s) : CommandsOk (cancel s).1 := by
  unfold cancel cancelFound
  split
  · exact h
  · exact settle_commandsOk _ _ h
  · exact markInFlight_commandsOk _ h
  · exact completeOutstanding_commandsOk _ _ _ h

/-- A record removed frees its place (R114). -/
theorem reservation_popped {s : State} {c : Completion} {rest : List Completion} (hc : s.ce.completions = c :: rest) :
    State.reservation { s with ce := { s.ce with completions := rest } } + 1 = s.reservation := by
  show rest.length + (if s.ce.inFlight.isSome then 1 else 0) + s.outstandingCount + 1 =
    s.ce.completions.length + (if s.ce.inFlight.isSome then 1 else 0) + s.outstandingCount
  rw [hc, List.length_cons]
  omega

/-- The record removed leaves its place before a settled command takes it (R131). -/
theorem popCompletion_commandsOk {s : State} (h : CommandsOk s) : CommandsOk (popCompletion s).1 := by
  unfold popCompletion
  split
  next => exact h
  next c rest hc =>
    refine flushSettled_commandsOk (commandsOk_of_le (s := s) (Nat.le_refl _) ?_ h)
    have hr := reservation_popped hc
    omega

theorem decideEntry_commandsOk (d : Deferred) (x : Decision) {s : State} (h : CommandsOk s) :
    CommandsOk (decideEntry d x s) :=
  oweVerdict_commandsOk _ _ _ (commandsOk_congr (s := s) rfl rfl h)

theorem judgeVerdict_commandsOk (g : Handle) (generation : Byte) (v : VerdictCode × Byte) {s : State}
    (h : CommandsOk s) : CommandsOk (judgeVerdict g generation v s).1 := by
  unfold judgeVerdict
  split
  · exact h
  split
  · exact h
  split
  · exact h
  · exact decideEntry_commandsOk _ _ h

theorem verdict_commandsOk {s : State} (h : CommandsOk s) : CommandsOk (verdict s).1 := by
  unfold verdict
  split
  · exact h
  split
  · exact h
  · exact judgeVerdict_commandsOk _ _ _ h

theorem popNotice_commandsOk {s : State} (h : CommandsOk s) : CommandsOk (popNotice s).1 := by
  unfold popNotice
  repeat' split
  all_goals exact commandsOk_congr rfl rfl h

theorem oweRelease_commandsOk (i : Slot) {s : State} (h : CommandsOk s) : CommandsOk (oweRelease i s) :=
  commandsOk_updEntry_of_state i _ (fun _ => rfl) h

theorem clearCensus_commandsOk (i : Slot) {s : State} (h : CommandsOk s) : CommandsOk (clearCensus i s) :=
  commandsOk_updEntry_of_state i _ (fun _ => rfl) h

theorem detachSlot_commandsOk (i : Slot) {s : State} (h : CommandsOk s) : CommandsOk (detachSlot i s).1 := by
  have hv := clearCensus_commandsOk i (enterVacant_commandsOk i .detached h)
  unfold detachSlot
  split
  · exact h
  · exact hv
  all_goals exact oweRelease_commandsOk i hv

theorem releaseSlot_commandsOk (i : Slot) {s : State} (h : CommandsOk s) : CommandsOk (releaseSlot i s).1 := by
  have hv := enterVacant_commandsOk i .detached h
  unfold releaseSlot
  split
  · exact oweRelease_commandsOk i hv
  · exact hv
  all_goals exact h

theorem renegotiateSlot_commandsOk (i : Slot) {s : State} (h : CommandsOk s) :
    CommandsOk (renegotiateSlot i s).1 := by
  unfold renegotiateSlot
  split
  · exact renegotiate_commandsOk i 2 h
  all_goals exact h

/-! ### The writes and the resets -/

theorem writeRate_commandsOk (c : BitVec 2) {s : State} (h : CommandsOk s) : CommandsOk (writeRate c s) := by
  unfold writeRate
  repeat' split
  all_goals exact commandsOk_congr rfl rfl h

/-- A write of WDAT writes no field of an entry but its census enable and its poll period (R182). -/
theorem writeArea_commandsOk {s t : State} (v : Byte) (h : CommandsOk s) (ht : writeArea v s = some t) :
    CommandsOk t := by
  unfold writeArea at ht
  split at ht
  · unfold writeModule at ht
    split at ht
    · cases ht
    · dsimp only at ht
      split at ht
      · obtain ⟨-, ⟨⟩⟩ := Option.ite_none_right_eq_some.1 ht
        exact commandsOk_updEntry_of_state _ _ (fun _ => rfl) h
      · obtain ⟨-, ⟨⟩⟩ := Option.ite_none_left_eq_some.1 ht
        exact commandsOk_updEntry_of_state _ _ (fun _ => rfl) h
      · cases ht
  · unfold writeLocalPage at ht
    split at ht
    · obtain ⟨p, -, rfl⟩ := Option.map_eq_some_iff.1 ht
      exact h
    · cases ht
  · obtain ⟨-, ⟨⟩⟩ := Option.ite_none_right_eq_some.1 ht
    exact h
  · unfold writeFilter at ht
    split at ht
    · cases ht
      exact h
    · cases ht
  · obtain ⟨g, -, rfl⟩ := Option.map_eq_some_iff.1 ht
    exact h
  · unfold writeParam at ht
    split at ht
    case h_7 => cases ht
    all_goals
      obtain ⟨-, ⟨⟩⟩ := Option.ite_none_right_eq_some.1 ht
      exact h
  all_goals cases ht

/-- A reset leaves no command and every entry VACANT. -/
theorem commandsOk_of_empty {s : State} (hc : s.ce = CommandEngine.reset) (hv : ∀ i, (s.entry i).state = .vacant) :
    CommandsOk s := by
  have ho := outstandingCount_of_vacant hv
  unfold CommandsOk State.reservation
  rw [hc, ho]
  decide

/-! ### The line and the time -/

theorem lineFault_commandsOk (c : FaultCause) {s : State} (h : CommandsOk s) : CommandsOk (lineFault c s) := by
  unfold lineFault
  repeat' split
  all_goals exact commandsOk_congr (by simp) (by simp) h

theorem lineRestored_commandsOk {s : State} (h : CommandsOk s) : CommandsOk (lineRestored s) := by
  have hp : CommandsOk (post .lineRestored 0 0 s) := post_commandsOk _ _ _ h
  unfold lineRestored
  split
  · split
    · unfold leaveFault
      repeat' split
      · exact commandsOk_congr rfl rfl hp
      · exact commandsOk_congr rfl rfl hp
      · exact afterWork_commandsOk hp
    · exact h
  all_goals exact h

theorem quietTimeRestart_commandsOk (c : QuietBreak) {s : State} (h : CommandsOk s) :
    CommandsOk (quietTimeRestart c s) := by
  unfold quietTimeRestart breakPins
  repeat' split
  all_goals exact commandsOk_congr rfl rfl h

theorem updActive_commandsOk (i : Slot) (f : ActiveData → ActiveData) (hf : ∀ d, (f d).outstanding = d.outstanding)
    {s : State} (h : CommandsOk s) : CommandsOk (s.updEntry i (Entry.updActive f)) := by
  refine commandsOk_updEntry i _ ?_ h
  cases ha : (s.entry i).active? with
  | none => rw [updActive_of_not f ha]; exact id
  | some d =>
    have hs := active_iff.1 ha
    rw [updActive_of_state f hs, outstanding_of_active hs, outstanding_of_active rfl, hf]
    exact id

theorem timeOutFold_commandsOk (l : List Deferred) {s : State} (h : CommandsOk s) :
    CommandsOk (l.foldl timeOut s) := by
  induction l generalizing s with
  | nil => exact h
  | cons d l ih => exact ih (post_commandsOk _ _ _ (decideEntry_commandsOk _ _ h))

theorem callSent_commandsOk {s : State} (h : CommandsOk s) : CommandsOk (callSent s) := by
  unfold callSent
  repeat' split
  all_goals exact commandsOk_congr rfl rfl h

theorem replyStartBit_commandsOk {s : State} (h : CommandsOk s) : CommandsOk (replyStartBit s) := by
  unfold replyStartBit
  split <;> exact commandsOk_congr rfl rfl h

theorem retryGapEnd_commandsOk {s : State} (h : CommandsOk s) : CommandsOk (retryGapEnd s) := by
  unfold retryGapEnd
  split <;> exact commandsOk_congr rfl rfl h

theorem endAttempt_commandsOk (o : ExchangeOutcome) {s : State} (h : CommandsOk s) : CommandsOk (endAttempt o s) := by
  unfold endAttempt
  split
  next => exact h
  next c _ =>
    split
    · exact commandsOk_congr rfl rfl h
    · exact afterWork_commandsOk (commandsOk_congr rfl rfl (deliver_commandsOk c o h))

theorem broadcastEnd_commandsOk {s : State} (h : CommandsOk s) : CommandsOk (broadcastEnd s) := by
  unfold broadcastEnd
  split
  · exact afterWork_commandsOk h
  all_goals exact h

theorem kept_commandsOk : Kept CommandsOk where
  pending _ h := h
  pins _ h := h
  win _ _ h := h
  holding _ h := h
  enableLink l := enableLink_commandsOk l
  disableLink := disableLink_commandsOk
  restartLink := restartLink_commandsOk
  submit := submit_commandsOk
  cancel := cancel_commandsOk
  popCompletion := popCompletion_commandsOk
  verdict := verdict_commandsOk
  popNotice := popNotice_commandsOk
  detachSlot i := detachSlot_commandsOk i
  releaseSlot i := releaseSlot_commandsOk i
  renegotiateSlot i := renegotiateSlot_commandsOk i
  softReset _ := commandsOk_of_empty rfl fun i => by rw [softReset_entry]; rfl
  pinReset _ := commandsOk_congr (s := State.reset) rfl rfl commandsOk_reset
  writeRate c := writeRate_commandsOk c
  writeArea v := writeArea_commandsOk v
  lineFault c := lineFault_commandsOk c
  lineRestored := lineRestored_commandsOk
  quietTimeRestart c := quietTimeRestart_commandsOk c
  msTick l r := msTick_commandsOk l r
  updActive i f hf := updActive_commandsOk i f hf
  expireCommands := expireCommands_commandsOk
  timeOutAll := timeOutFold_commandsOk _
  chooseCall := chooseCall_commandsOk
  callSent := callSent_commandsOk
  replyStartBit := replyStartBit_commandsOk
  retryGapEnd := retryGapEnd_commandsOk
  endAttempt o _ := endAttempt_commandsOk o
  broadcastEnd := broadcastEnd_commandsOk

/-- Settles O56: the bounds of the two queues are kept by every operation, so by every step. -/
theorem stepKeepsCommandsOk : Obligations.StepKeepsCommandsOk := fun _ _ h hs => kept_commandsOk.step h hs

end Sys2Proof.Machine
end

section
/-! ## Settled commands and their records (O19)

`takeSettled` by what it leaves and what it takes: the unsettled commands stay, the settled ones go in queue order while
there is room. -/

namespace Sys2Proof.Machine

/-! ### The settled commands of a queue -/

/-- The record of a settled command (R126); `st` stands for the status of one that is not settled, which gets none. -/
def QueuedCommand.record (st : CompletionStatus) (q : QueuedCommand) : Completion :=
  q.held.completion (q.settled.getD st) 0 []

section
variable (room : Nat) {q : QueuedCommand} (l : List QueuedCommand)

theorem takeSettled_cons_unsettled (h : q.settled = none) :
    takeSettled room (q :: l) = (q :: (takeSettled room l).1, (takeSettled room l).2) := by
  simp [takeSettled, h]

theorem takeSettled_cons_full {status : CompletionStatus} (h : q.settled = some status) :
    takeSettled 0 (q :: l) = (q :: (takeSettled 0 l).1, (takeSettled 0 l).2) := by
  simp [takeSettled, h]

theorem takeSettled_cons_taken {status : CompletionStatus} (h : q.settled = some status) :
    takeSettled (room + 1) (q :: l) =
      ((takeSettled room l).1, q.held.completion status 0 [] :: (takeSettled room l).2) := by
  simp [takeSettled, h]

end

/-- The commands taken are the first settled ones, as many as there is room for (R127). -/
theorem takeSettled_records (st : CompletionStatus) (room : Nat) (l : List QueuedCommand) :
    (takeSettled room l).2 = ((l.filter fun q => q.settled.isSome).take room).map (QueuedCommand.record st) := by
  induction l generalizing room with
  | nil => simp [takeSettled]
  | cons q l ih =>
    cases hq : q.settled with
    | none => simp [takeSettled_cons_unsettled _ _ hq, hq, ih]
    | some status =>
      cases room with
      | zero => simp [takeSettled_cons_full _ hq, ih]
      | succ room => simp [takeSettled_cons_taken _ _ hq, hq, ih, QueuedCommand.record]

theorem takeSettled_sublist (room : Nat) (l : List QueuedCommand) : (takeSettled room l).1.Sublist l := by
  induction l generalizing room with
  | nil => simp [takeSettled]
  | cons q l ih =>
    cases hq : q.settled with
    | none => simp [takeSettled_cons_unsettled _ _ hq, ih]
    | some status =>
      cases room with
      | zero => simp [takeSettled_cons_full _ hq, ih]
      | succ room => simpa [takeSettled_cons_taken _ _ hq] using (ih room).cons q

/-- No unsettled command leaves the queue. -/
theorem takeSettled_unsettled (room : Nat) (l : List QueuedCommand) :
    (takeSettled room l).1.filter (fun q => q.settled.isNone) = l.filter fun q => q.settled.isNone := by
  induction l generalizing room with
  | nil => simp [takeSettled]
  | cons q l ih =>
    cases hq : q.settled with
    | none => simp [takeSettled_cons_unsettled _ _ hq, hq, ih]
    | some status =>
      cases room with
      | zero => simp [takeSettled_cons_full _ hq, hq, ih]
      | succ room => simp [takeSettled_cons_taken _ _ hq, hq, ih]

/-- The settled commands beyond the room wait in the queue (R127). -/
theorem takeSettled_waiting (room : Nat) (l : List QueuedCommand) :
    (takeSettled room l).1.filter (fun q => q.settled.isSome) = (l.filter fun q => q.settled.isSome).drop room := by
  induction l generalizing room with
  | nil => simp [takeSettled]
  | cons q l ih =>
    cases hq : q.settled with
    | none => simp [takeSettled_cons_unsettled _ _ hq, hq, ih]
    | some status =>
      cases room with
      | zero => simp [takeSettled_cons_full _ hq, hq, ih]
      | succ room => simp [takeSettled_cons_taken _ _ hq, hq, ih]

/-- Unsettled commands at the head of the queue stay there. -/
theorem takeSettled_append_unsettled (room : Nat) {before : List QueuedCommand} (h : ∀ x ∈ before, x.settled = none)
    (l : List QueuedCommand) :
    takeSettled room (before ++ l) = (before ++ (takeSettled room l).1, (takeSettled room l).2) := by
  induction before with
  | nil => rfl
  | cons q before ih =>
    obtain ⟨hq, hb⟩ := List.forall_mem_cons.1 h
    rw [List.cons_append, takeSettled_cons_unsettled _ _ hq, ih hb]
    rfl

theorem takeSettled_all_unsettled (room : Nat) {l : List QueuedCommand} (h : ∀ x ∈ l, x.settled = none) :
    takeSettled room l = (l, []) := by
  simpa [takeSettled] using takeSettled_append_unsettled room h []

theorem takeSettled_full (l : List QueuedCommand) : takeSettled 0 l = (l, []) := by
  induction l with
  | nil => rfl
  | cons q l ih =>
    cases hq : q.settled with
    | none => rw [takeSettled_cons_unsettled _ _ hq, ih]
    | some status => rw [takeSettled_cons_full _ hq, ih]

/-! ### Settling and POP_COMPLETION -/

/-- The queue with the picked unsettled commands settled. -/
def State.markedQueue (s : State) (pick : QueuedCommand → Bool) (st : CompletionStatus) : List QueuedCommand :=
  s.ce.queue.map (QueuedCommand.settleIf pick st)

/-- Settling as one write of the command engine (R125 to R127). -/
theorem settle_eq (pick : QueuedCommand → Bool) (st : CompletionStatus) (s : State) :
    settle pick st s =
      { s with ce :=
        { s.ce with
          queue := (takeSettled (16 - s.reservation) (s.markedQueue pick st)).1
          completions := s.ce.completions ++ (takeSettled (16 - s.reservation) (s.markedQueue pick st)).2 } } := rfl

theorem exec_popCompletion {s : State} (h : s.Running) :
    exec .popCompletion s = .next ((popCompletion s).1.acted 0x12 (popCompletion s).2) :=
  congrArg Host.Outcome.next (whileRunning_running h)

/-- POP_COMPLETION with a record at the head: the settled commands have the room of before and one place more (R131). -/
theorem popCompletion_of_cons {s : State} {c : Completion} {rest : List Completion} (hc : s.ce.completions = c :: rest)
    {queue : List QueuedCommand} {ended : List Completion}
    (ht : takeSettled (16 + 1 - s.reservation) s.ce.queue = (queue, ended)) :
    popCompletion s =
      ({ s with ce := { s.ce with queue := queue, completions := rest ++ ended } }, .done) := by
  have hroom : 16 + 1 - s.reservation =
      Config.completionPlaces - State.reservation { s with ce := { s.ce with completions := rest } } := by
    have hr := reservation_popped hc
    unfold Config.completionPlaces
    omega
  rw [hroom] at ht
  unfold popCompletion flushSettled
  rw [hc]
  simp only [ht]

/-- Settles O19: settling by what it takes of the queue, and POP_COMPLETION by what waits. -/
theorem settlingAndPopCompletion : Obligations.SettlingAndPopCompletion := by
  refine ⟨fun pick status s => ?_, fun s h => ⟨fun hc => ?_, fun c rest hc hq => ?_, ?_⟩⟩
  · refine ⟨_, ?_, takeSettled_sublist _ _, takeSettled_unsettled _ _, takeSettled_waiting _ _⟩
    rw [settle_eq, takeSettled_records .ok]
    rfl
  · rw [exec_popCompletion h, popCompletion, hc]
  · rw [exec_popCompletion h, popCompletion_of_cons hc (takeSettled_all_unsettled _ hq), List.append_nil]
  · intro c rest before q after status hc hr hq hb hs
    have ht : takeSettled (16 + 1 - s.reservation) s.ce.queue =
        (before ++ after, [q.held.completion status 0 []]) := by
      rw [hr, hq, takeSettled_append_unsettled _ hb, takeSettled_cons_taken 0 _ hs, takeSettled_full]
    rw [exec_popCompletion h, popCompletion_of_cons hc ht]
    rfl

end Sys2Proof.Machine
end

section
/-! ## SUBMIT and CANCEL (O17, O18) -/

namespace Sys2Proof.Machine

/-! ### SUBMIT (R109) -/

theorem exec_submit {s : State} (h : s.Running) :
    exec .submit s = .next ((submit s).1.acted 0x10 (submit s).2) :=
  congrArg Host.Outcome.next (whileRunning_running h)

theorem exec_submit_refused {s : State} {r : ActionResult} (h : s.Running) (hs : s.checkStaged = .error r) :
    exec .submit s = .next (s.acted 0x10 r) := by
  rw [exec_submit h, submit, hs]

theorem submit_of_ok {s : State} {i : Slot} (hs : s.checkStaged = .ok i) :
    submit s = (acceptCommand (s.win.staging.command i) s, .accepted) := by
  rw [submit, hs]

/-- The checks of a record whose target is a slot, in their order. -/
theorem checkStaged_of_slot {s : State} {i : Slot} (h : s.win.staging.target = slotByte i) :
    s.checkStaged =
      if 24 < s.win.staging.length.toNat then .error .badLength
      else if 4095 < s.win.staging.deadline.toNat then .error .badDeadline
      else if 16 ≤ s.ce.queue.length then .error .queueFull
      else .ok i := by
  rw [State.checkStaged, h, slotOfByte_slotByte]
  rfl

theorem checkStaged_of_badTarget {s : State} (h : s.win.staging.target = 0 ∨ 30 < s.win.staging.target.toNat) :
    s.checkStaged = .error .badTarget := by
  rw [State.checkStaged, slotOfByte_eq_none h]

/-- A deadline of 0 is none (R123). -/
theorem staging_remainingAtStart (g : Staging) (i : Slot) :
    (g.command i).remainingAtStart = if g.deadline = 0 then none else some g.deadline.toNat := by
  have hz : g.deadline.toNat = 0 ↔ g.deadline = 0 := by rw [BitVec.toNat_eq]; rfl
  unfold Command.remainingAtStart
  exact if_congr hz rfl rfl

/-- Settles O17: the checks one after another, and the command accepted. -/
theorem Settled.submit : Obligations.Submit := by
  intro s h
  refine ⟨fun hb => exec_submit_refused h (checkStaged_of_badTarget hb), fun i hi => ?_⟩
  have hc := checkStaged_of_slot hi
  refine ⟨fun hl => ?_, fun hl hd => ?_, fun hl hd hq => ?_, fun hl hd hq => ?_⟩
  · exact exec_submit_refused h (by rw [hc, if_pos hl])
  · exact exec_submit_refused h (by rw [hc, if_neg (by omega), if_pos hd])
  · exact exec_submit_refused h (by rw [hc, if_neg (by omega), if_neg (by omega), if_pos hq])
  · rw [if_neg (by omega), if_neg (by omega), if_neg (by omega)] at hc
    rw [exec_submit h, submit_of_ok hc, acceptCommand, staging_remainingAtStart]
    rfl

/-! ### The command CANCEL finds (R128) -/

theorem oldestHeld_mem {l : List HeldAt} {h : HeldAt} (ho : oldestHeld l = some h) : h ∈ l := by
  induction l generalizing h with
  | nil => cases ho
  | cons x l ih =>
    unfold oldestHeld at ho
    split at ho
    next => exact Option.some.inj ho ▸ List.mem_cons_self
    next b hb =>
      split at ho
      · exact Option.some.inj ho ▸ List.mem_cons_self
      · exact Option.some.inj ho ▸ List.mem_cons_of_mem _ (ih hb)

theorem oldestHeld_eq_none {l : List HeldAt} (h : oldestHeld l = none) : l = [] := by
  cases l with
  | nil => rfl
  | cons x l =>
    unfold oldestHeld at h
    repeat' split at h
    all_goals cases h

/-- The command with a place before every other's is the oldest. -/
theorem oldestHeld_of_first {l : List HeldAt} {h : HeldAt} (hm : h ∈ l)
    (hf : ∀ x ∈ l, x ≠ h → h.held.place < x.held.place) : oldestHeld l = some h := by
  induction l with
  | nil => cases hm
  | cons x l ih =>
    obtain ⟨hx, hl⟩ := List.forall_mem_cons.1 hf
    unfold oldestHeld
    split
    next hn =>
      rw [oldestHeld_eq_none hn] at hm
      rw [List.mem_singleton.1 hm]
    next b hb =>
      by_cases hmem : h ∈ l
      · obtain rfl := Option.some.inj (hb.symm.trans (ih hmem hl))
        split
        next hle =>
          by_contra hne
          have hlt := hx fun he => hne (congrArg some he)
          omega
        next => rfl
      · obtain rfl := (List.mem_cons.1 hm).resolve_right hmem
        have hlt := hl b (oldestHeld_mem hb) fun he => hmem (he ▸ oldestHeld_mem hb)
        rw [if_pos (Nat.le_of_lt hlt)]

theorem findTag_of_none {s : State} {tag : Byte} (h : ∀ x ∈ s.heldCommands, x.held.cmd.tag ≠ tag) :
    s.findTag tag = none := by
  rw [State.findTag, List.filter_eq_nil_iff.2 fun x hx => by simpa using h x hx]
  rfl

theorem findTag_of_first {s : State} {tag : Byte} {h : HeldAt} (hm : h ∈ s.heldCommands) (ht : h.held.cmd.tag = tag)
    (hf : ∀ x ∈ s.heldCommands, x.held.cmd.tag = tag → x ≠ h → h.held.place < x.held.place) :
    s.findTag tag = some h := by
  refine oldestHeld_of_first (List.mem_filter.2 ⟨hm, by simpa using ht⟩) fun x hx hne => ?_
  obtain ⟨hxm, hxt⟩ := List.mem_filter.1 hx
  exact hf x hxm (by simpa using hxt) hne

theorem inFlight_of_mem_held {s : State} {f : InFlight} (h : .inFlight f ∈ s.heldCommands) :
    s.ce.inFlight = some f := by
  simpa [State.heldCommands] using h

theorem outstanding_of_mem_held {s : State} {i : Slot} {o : Outstanding} (h : .outstanding i o ∈ s.heldCommands) :
    (s.entry i).outstanding? = some o := by
  simpa [State.heldCommands, mem_allSlots] using h

/-! ### CANCEL (R129) -/

theorem exec_cancel {s t : State} {r : ActionResult} {found : Option HeldAt} (h : s.Running)
    (hf : s.findTag s.win.args[0] = found) (hc : cancelFound found s = (t, r)) :
    exec .cancel s = .next (t.acted 0x11 r) := by
  have hx : exec .cancel s = .next ((cancel s).1.acted 0x11 (cancel s).2) :=
    congrArg Host.Outcome.next (whileRunning_running h)
  rw [hx, Machine.cancel, hf, hc]

theorem addMark_eq (m : EndMark) (f : InFlight) :
    f.addMark m = { f with marks := if m ∈ f.marks then f.marks else f.marks ++ [m] } := by
  unfold InFlight.addMark
  by_cases hm : m ∈ f.marks <;> simp [hm]

/-- Settles O18: the command found by its place, and the effect on it by where it stands. -/
theorem Settled.cancel : Obligations.Cancel := by
  intro s h
  refine ⟨fun hn => exec_cancel h (findTag_of_none hn) rfl, fun x hm ht hf => ?_⟩
  have hfound := findTag_of_first hm ht hf
  refine ⟨?_, ?_, ?_⟩
  · rintro q rfl
    exact exec_cancel h hfound rfl
  · rintro f rfl
    rw [exec_cancel h hfound rfl, markInFlight, inFlight_of_mem_held hm, Option.map_some, addMark_eq]
  · rintro i o rfl
    rw [exec_cancel h hfound rfl, completeOutstanding_eq, outstanding_of_mem_held hm]
    rfl

end Sys2Proof.Machine
end

section
/-! ## The end of a COMMAND exchange (O22)

Tables 5-3 and 5-4 by the reply: a result and a refusal end the command, WORKING ends it or leaves it outstanding, and
no valid reply ends it NO_REPLY. -/

namespace Sys2Proof.Machine

theorem exec_command_end {i : Instr} {c : Call} {o : ExchangeOutcome} {s : State} (h : ExchangeEnds i c o s)
    (hk : c.kind = .command) : exec i s = .next (finishExchange (deliverCommand c.slot c.seq o s)) := by
  rw [exec_of_exchangeEnds h, deliver, hk]

/-! ### The replies (R115 to R117) -/

section
variable {s : State} {f : InFlight} (hf : s.ce.inFlight = some f) (k : Slot) (seq : Bool)
include hf

theorem deliverCommand_result (data : List Byte) (q : Bool) :
    deliverCommand k seq (.reply (.result data) q) s = endInFlight f .ok 0 data (clearMissesIfActive k s) := by
  rw [deliverCommand, hf]

theorem deliverCommand_refused (reason : Byte) (q : Bool) :
    deliverCommand k seq (.reply (.refused reason) q) s =
      endInFlight f .refused reason [] (clearMissesIfActive k s) := by
  rw [deliverCommand, hf]

theorem deliverCommand_working (q : Bool) :
    deliverCommand k seq (.reply .working q) s = endWorking k f seq (clearMissesIfActive k s) := by
  rw [deliverCommand, hf]

theorem deliverCommand_failed {o : ExchangeOutcome} (ho : o = .silence ∨ o = .garble) :
    deliverCommand k seq o s = countMissIfActive k (endInFlight f .noReply 0 [] s) := by
  rcases ho with rfl | rfl <;> rw [deliverCommand, hf]

end

/-! ### The misses (R103, R104) -/

theorem clearMissesIfActive_of_active {k : Slot} {s : State} (h : (s.entry k).isActive = true) :
    clearMissesIfActive k s = s.setEntry k { s.entry k with missCount := 0 } := if_pos h

theorem clearMissesIfActive_of_not {k : Slot} {s : State} (h : ¬ (s.entry k).isActive = true) :
    clearMissesIfActive k s = s := if_neg h

theorem countMissIfActive_of_active {k : Slot} {s : State} (h : (s.entry k).isActive = true) :
    countMissIfActive k s = countMiss k s := if_pos h

theorem countMissIfActive_of_not {k : Slot} {s : State} (h : ¬ (s.entry k).isActive = true) :
    countMissIfActive k s = s := if_neg h

theorem not_isActive_of_state {e : Entry} (h : ∀ d, e.state ≠ .active d) : ¬ e.isActive = true := by
  rw [Entry.isActive, active_none_of_state h]
  exact Bool.false_ne_true

/-! ### WORKING (R115, R116, R118, R119) -/

/-- WORKING that gives a status ends the command with it. -/
theorem endWorking_of_status {k : Slot} {f : InFlight} {s : State} {status : CompletionStatus}
    (h : workingStatus f (s.entry k) = some status) (seq : Bool) :
    endWorking k f seq s = endInFlight f status 0 [] s := by
  rw [endWorking, h]

/-- The mark set first decides. -/
theorem workingStatus_of_mark {f : InFlight} {m : EndMark} {rest : List EndMark} (h : f.marks = m :: rest)
    (e : Entry) : workingStatus f e = some m.status := by
  rw [workingStatus, h]

theorem workingStatus_of_negotiating {f : InFlight} {e : Entry} {ctx : Context} (h : f.marks = [])
    (he : e.state = .negotiating ctx) : workingStatus f e = some .renegotiated := by
  simp [workingStatus, h, he]

theorem workingStatus_of_other {f : InFlight} {e : Entry} (h : f.marks = [])
    (he : e.state = .vacant ∨ e.state = .lost ∨ ∃ x, e.state = .failed x) : workingStatus f e = some .detached := by
  rcases he with he | he | ⟨x, he⟩ <;> simp [workingStatus, h, he]

/-- WORKING without a mark makes the command of an ACTIVE entry outstanding, in one write of the entry. -/
theorem endWorking_outstanding {k : Slot} {f : InFlight} {s : State} {d : ActiveData} (h : f.marks = [])
    (he : (s.entry k).state = .active d) (seq : Bool) :
    endWorking k f seq s =
      { s with
        ce := { s.ce with inFlight := none }
        table := s.table.set k.val
          { s.entry k with state := .active { d with outstanding := some ⟨f.held, seq⟩ } } } := by
  have hw : workingStatus f (s.entry k) = none := by simp [workingStatus, h, he]
  rw [endWorking, hw, ← updActive_of_state (fun d => { d with outstanding := some ⟨f.held, seq⟩ }) he]
  rfl

/-- Settles O22: a line of the two tables for each clause. -/
theorem commandExchangeEnd : Obligations.CommandExchangeEnd := by
  intro i c o s f h hk hf k heard record
  have hx := exec_command_end h hk
  have hnot : (∀ d, (s.entry k).state ≠ .active d) → clearMissesIfActive k s = s := fun hn =>
    clearMissesIfActive_of_not (not_isActive_of_state hn)
  refine ⟨?_, ?_, ?_, ?_, ?_, ?_, ?_, ?_, ?_⟩
  · rintro data q rfl
    rw [hx, deliverCommand_result hf]
    rfl
  · rintro reason q rfl
    rw [hx, deliverCommand_refused hf]
    rfl
  · rintro q rest rfl hm
    rw [hx, deliverCommand_working hf, endWorking_of_status (workingStatus_of_mark hm _)]
    rfl
  · rintro q rest rfl hm
    rw [hx, deliverCommand_working hf, endWorking_of_status (workingStatus_of_mark hm _)]
    rfl
  · rintro q d rfl hm hs
    have hs' : ((s.setEntry k { s.entry k with missCount := 0 }).entry k).state = .active d := by
      rw [entry_setEntry_same]
      exact hs
    rw [hx, deliverCommand_working hf, clearMissesIfActive_of_active (isActive_of_state hs),
      endWorking_outstanding hm hs', entry_setEntry_same, setEntry_table, Vector.set_set]
    rfl
  · rintro q ctx rfl hm hs
    rw [hx, deliverCommand_working hf, hnot (by rw [hs]; rintro d ⟨⟩),
      endWorking_of_status (workingStatus_of_negotiating hm hs)]
    rfl
  · rintro q rfl hm hs
    have hn : ∀ d, (s.entry k).state ≠ .active d := by
      rcases hs with hs | hs | ⟨x, hs⟩ <;> rw [hs] <;> rintro d ⟨⟩
    rw [hx, deliverCommand_working hf, hnot hn, endWorking_of_status (workingStatus_of_other hm hs)]
    rfl
  · intro ho ha
    rw [hx, deliverCommand_failed hf _ _ ho, countMissIfActive_of_active (by rw [endInFlight_entry]; exact ha)]
    rfl
  · intro ho ha
    rw [hx, deliverCommand_failed hf _ _ ho,
      countMissIfActive_of_not (by rw [endInFlight_entry, ha]; exact Bool.false_ne_true)]
    rfl

end Sys2Proof.Machine
end

section
/-! ## The expiry of deadlines (O20)

COMMAND_EXPIRY folds `expireOutstanding` over the expired outstanding commands in acceptance order, marks the in-flight
command and settles the queued ones. The fold is stated for any list of slots with their outstanding commands; the claim
reads it at the sorted list. -/

namespace Sys2Proof.Machine

theorem exec_commandExpiry {s : State} (h : s.Running) : exec .commandExpiry s = .next (expireCommands s) :=
  congrArg Host.Outcome.next (whileRunning_running h)

theorem hasExpired_iff (c : HeldCommand) : c.hasExpired = true ↔ c.remaining = some 0 := beq_iff_eq

/-! ### The outstanding commands that have expired, in acceptance order -/

/-- The outstanding command of a slot, if it has expired. -/
def State.expiredAt (s : State) (i : Slot) : Option (Slot × Outstanding) :=
  ((s.entry i).outstanding?.filter fun o => o.held.hasExpired).map (Prod.mk i)

/-- The expired outstanding commands in acceptance order (R124). -/
def State.ended (s : State) : List (Slot × Outstanding) :=
  (allSlots.filterMap s.expiredAt).insertionSort fun a b => a.2.held.place ≤ b.2.held.place

theorem expiredAt_eq_some {s : State} {i j : Slot} {o : Outstanding} :
    s.expiredAt i = some (j, o) ↔ i = j ∧ (s.entry i).outstanding? = some o ∧ o.held.remaining = some 0 := by
  simp only [State.expiredAt, Option.map_eq_some_iff, Option.filter_eq_some_iff, hasExpired_iff, Prod.mk.injEq]
  constructor
  · rintro ⟨o', ho, rfl, rfl⟩
    exact ⟨rfl, ho⟩
  · rintro ⟨rfl, ho⟩
    exact ⟨o, ho, rfl, rfl⟩

theorem mem_ended {s : State} {i : Slot} {o : Outstanding} :
    (i, o) ∈ s.ended ↔ (s.entry i).outstanding? = some o ∧ o.held.remaining = some 0 := by
  rw [State.ended, List.mem_insertionSort, List.mem_filterMap]
  constructor
  · rintro ⟨j, -, hj⟩
    obtain ⟨rfl, ho⟩ := expiredAt_eq_some.1 hj
    exact ho
  · exact fun ho => ⟨i, mem_allSlots i, expiredAt_eq_some.2 ⟨rfl, ho⟩⟩

theorem ended_slots_nodup (s : State) : (s.ended.map Prod.fst).Nodup := by
  have hp := (List.perm_insertionSort (fun a b : Slot × Outstanding => a.2.held.place ≤ b.2.held.place)
    (allSlots.filterMap s.expiredAt)).map Prod.fst
  refine hp.nodup_iff.2 ?_
  rw [List.map_filterMap]
  refine (List.nodup_finRange 30).filterMap fun i j k hi hj => ?_
  obtain ⟨⟨k₁, o₁⟩, h₁, rfl⟩ := Option.map_eq_some_iff.1 hi
  obtain ⟨⟨k₂, o₂⟩, h₂, hk⟩ := Option.map_eq_some_iff.1 hj
  exact (expiredAt_eq_some.1 h₁).1.trans (hk.symm.trans (expiredAt_eq_some.1 h₂).1.symm)

theorem ended_ordered (s : State) : s.ended.Pairwise fun a b => a.2.held.place ≤ b.2.held.place :=
  have : Std.Total fun a b : Slot × Outstanding => a.2.held.place ≤ b.2.held.place := ⟨fun _ _ => Nat.le_total _ _⟩
  have : IsTrans (Slot × Outstanding) fun a b => a.2.held.place ≤ b.2.held.place := ⟨fun _ _ _ => Nat.le_trans⟩
  List.pairwise_insertionSort _ _

theorem insertByPlace_eq (x : Nat × Slot) (l : List (Nat × Slot)) :
    insertByPlace x l = l.orderedInsert (fun a b => a.1 ≤ b.1) x := by
  induction l with
  | nil => rfl
  | cons y l ih => rw [insertByPlace, ih, List.orderedInsert_cons]

/-- The model sorts the places with their slots; the sorted list is that of `ended`. -/
theorem expiredOutstanding_sorted (s : State) :
    s.expiredOutstanding.foldr insertByPlace [] = s.ended.map fun x => (x.2.held.place, x.1) := by
  have hm : s.expiredOutstanding = (allSlots.filterMap s.expiredAt).map fun x => (x.2.held.place, x.1) := by
    rw [List.map_filterMap]
    refine List.filterMap_congr fun i _ => ?_
    unfold State.expiredAt
    cases (s.entry i).outstanding? with
    | none => rfl
    | some o => by_cases ho : o.held.hasExpired = true <;> simp [Option.filter, ho]
  have hi : insertByPlace = List.orderedInsert (fun a b => a.1 ≤ b.1) := by
    funext x l
    exact insertByPlace_eq x l
  rw [hm, hi, State.ended]
  exact (List.map_insertionSort (fun a b : Slot × Outstanding => a.2.held.place ≤ b.2.held.place)
    (fun a b : Nat × Slot => a.1 ≤ b.1) _ _ fun _ _ _ _ => Iff.rfl).symm

/-! ### Outstanding commands ended one after another -/

/-- The state with the outstanding commands of a list's slots ended EXPIRED, in the order of the list. -/
def State.expireAll (s : State) (l : List (Slot × Outstanding)) : State :=
  l.foldl (fun u x => completeOutstanding x.1 .expired [] u) s

theorem expireAll_cons (s : State) (x : Slot × Outstanding) (l : List (Slot × Outstanding)) :
    s.expireAll (x :: l) = (completeOutstanding x.1 .expired [] s).expireAll l := rfl

theorem expireAll_reservation (s : State) (l : List (Slot × Outstanding)) :
    (s.expireAll l).reservation = s.reservation := by
  induction l generalizing s with
  | nil => rfl
  | cons x l ih => rw [expireAll_cons, ih, completeOutstanding_reservation]

theorem setOutstanding_none_idem (e : Entry) : (e.setOutstanding none).setOutstanding none = e.setOutstanding none :=
  setOutstanding_of_none (setOutstanding_none_outstanding e)

theorem expireAll_entry (s : State) (l : List (Slot × Outstanding)) (k : Slot) :
    (s.expireAll l).entry k = if k ∈ l.map Prod.fst then (s.entry k).setOutstanding none else s.entry k := by
  induction l generalizing s with
  | nil => rfl
  | cons x l ih =>
    rw [expireAll_cons, ih, completeOutstanding_entry]
    by_cases hk : k = x.1
    · subst hk
      simp [setOutstanding_none_idem]
    · rw [if_neg hk]
      exact if_congr (by simp [hk]) rfl rfl

/-- With distinct slots each command gives its record, in the order of the list (R120, R124). -/
theorem expireAll_ce {s : State} {l : List (Slot × Outstanding)} (hn : (l.map Prod.fst).Nodup)
    (hl : ∀ x ∈ l, (s.entry x.1).outstanding? = some x.2) :
    (s.expireAll l).ce =
      { s.ce with
        completions := s.ce.completions ++ l.map fun x => x.2.held.completion .expired 0 [] } := by
  induction l generalizing s with
  | nil => simp [State.expireAll]
  | cons x l ih =>
    obtain ⟨hx, hnl⟩ := List.nodup_cons.1 hn
    obtain ⟨hxo, hlo⟩ := List.forall_mem_cons.1 hl
    have hrest : ∀ y ∈ l, ((completeOutstanding x.1 .expired [] s).entry y.1).outstanding? = some y.2 := by
      intro y hy
      have hne : y.1 ≠ x.1 := fun he => hx (he ▸ List.mem_map_of_mem hy)
      rw [completeOutstanding_entry, if_neg hne]
      exact hlo y hy
    rw [expireAll_cons, ih hnl hrest, completeOutstanding_ce, hxo]
    simp

/-! ### The in-flight command's mark -/

/-- The in-flight command after its expiry, if it has expired (R118, R124). -/
def InFlight.expire (f : InFlight) : InFlight :=
  if f.held.remaining = some 0 ∧ .expired ∉ f.marks then { f with marks := f.marks ++ [.expired] } else f

theorem expireInFlight_eq (s : State) :
    expireInFlight s = { s with ce := { s.ce with inFlight := s.ce.inFlight.map InFlight.expire } } := by
  unfold expireInFlight
  split
  next hf => rw [hf, Option.map_none, ← hf]
  next f hf =>
    have ha : InFlight.expire f = if f.held.hasExpired then f.addMark .expired else f := by
      by_cases hr : f.held.remaining = some 0 <;> by_cases hm : .expired ∈ f.marks <;>
        simp [InFlight.expire, InFlight.addMark, HeldCommand.hasExpired, hr, hm]
    rw [hf, Option.map_some, ha]
    split
    · rw [markInFlight, hf]
      rfl
    · rw [← hf]

theorem expireInFlight_reservation (s : State) : (expireInFlight s).reservation = s.reservation := by
  rw [expireInFlight_eq]
  unfold State.reservation
  simp only [Option.isSome_map]
  rfl

/-! ### The three parts together -/

theorem expireCommands_eq (s : State) :
    expireCommands s =
      settle (fun q => q.held.hasExpired) .expired (expireInFlight (s.expireAll s.ended)) := by
  rw [expireCommands, expiredOutstanding_sorted, List.foldl_map]
  rfl

theorem expired_ce (s : State) :
    (expireInFlight (s.expireAll s.ended)).ce =
      { s.ce with
        inFlight := s.ce.inFlight.map InFlight.expire
        completions := s.ce.completions ++ s.ended.map fun x => x.2.held.completion .expired 0 [] } := by
  rw [expireInFlight_eq, expireAll_ce (ended_slots_nodup s) fun x hx => (mem_ended.1 hx).1]

/-- The queue after the marks of the expiry: the queued unsettled commands whose deadline has run out are settled. -/
theorem settleIf_hasExpired (q : QueuedCommand) :
    q.settleIf (fun q => q.held.hasExpired) .expired =
      if q.settled = none ∧ q.held.remaining = some 0 then { q with settled := some .expired } else q := by
  unfold QueuedCommand.settleIf
  simp only [hasExpired_iff]

theorem expireCommands_entry (s : State) (k : Slot) :
    (expireCommands s).entry k =
      if (s.entry k).outstanding?.any (fun o => o.held.remaining == some 0) then (s.entry k).setOutstanding none
      else s.entry k := by
  have hk : k ∈ s.ended.map Prod.fst ↔ (s.entry k).outstanding?.any (fun o => o.held.remaining == some 0) = true := by
    simp [mem_ended, Option.any_eq_true]
  rw [expireCommands_eq, settle_entry, expireInFlight_eq]
  exact (expireAll_entry s s.ended k).trans (if_congr hk rfl rfl)

/-- Settles O20: the records of the outstanding commands, then what settling takes of the queue. -/
theorem commandExpiry : Obligations.CommandExpiry := by
  intro s h marked room waiting
  have hres : (expireInFlight (s.expireAll s.ended)).reservation = s.reservation := by
    rw [expireInFlight_reservation, expireAll_reservation]
  have hmarked : (expireInFlight (s.expireAll s.ended)).markedQueue (fun q => q.held.hasExpired) .expired = marked := by
    rw [State.markedQueue, expired_ce]
    exact List.map_congr_left fun q _ => settleIf_hasExpired q
  have hce : (expireCommands s).ce =
      { s.ce with
        queue := (takeSettled room marked).1
        inFlight := s.ce.inFlight.map InFlight.expire
        completions := s.ce.completions ++ (s.ended.map fun x => x.2.held.completion .expired 0 []) ++
          (takeSettled room marked).2 } := by
    rw [expireCommands_eq, settle_eq, hmarked, hres, expired_ce]
  refine ⟨expireCommands s, s.ended, exec_commandExpiry h, ended_slots_nodup s, ended_ordered s, fun i o => mem_ended,
    ?_, ?_, ?_, ?_, ?_, expireCommands_entry s, by simp, by simp, by simp, by simp, by simp, by simp, by simp, by simp,
    ?_⟩
  · rw [hce, takeSettled_records .expired]
    rfl
  · rw [hce]
    exact takeSettled_sublist room marked
  · rw [hce]
    exact takeSettled_unsettled room marked
  · rw [hce]
    exact takeSettled_waiting room marked
  · rw [hce]
    rfl
  · rw [hce]

end Sys2Proof.Machine
end

section
/-! ## The VERDICT action (O24) and messages of a reserved class (O26) -/

namespace Sys2Proof.Machine

/-! ### The results of VERDICT (Table 6-3) -/

theorem exec_verdict {s : State} (h : s.Running) :
    exec .verdict s = .next ((verdict s).1.acted 0x20 (verdict s).2) :=
  congrArg Host.Outcome.next (whileRunning_running h)

theorem verdictOfByte_eq_none {b : Byte} (h1 : b ≠ 1) (h2 : b ≠ 2) : verdictOfByte b = none := by
  unfold verdictOfByte
  split
  next hb => exact absurd (BitVec.eq_of_toNat_eq hb) h1
  next hb => exact absurd (BitVec.eq_of_toNat_eq hb) h2
  next => rfl

/-- The first row of Table 6-3: a verdict code or a reason of REJECT out of range. -/
theorem verdictArgs_of_bad {code reason : Byte}
    (h : (code ≠ 1 ∧ code ≠ 2) ∨ (code = 2 ∧ (reason = 0 ∨ 0xF0 ≤ reason.toNat))) : verdictArgs code reason = none := by
  rcases h with ⟨h1, h2⟩ | ⟨rfl, hr⟩
  · rw [verdictArgs, verdictOfByte_eq_none h1 h2]
  · exact if_pos hr

/-- In range, the arguments name ACCEPT with reason 0, or REJECT with the reason given (R155, R156). -/
theorem verdictArgs_of_good {code reason : Byte}
    (h : ¬ ((code ≠ 1 ∧ code ≠ 2) ∨ (code = 2 ∧ (reason = 0 ∨ 0xF0 ≤ reason.toNat)))) :
    verdictArgs code reason = some (if code = 1 then .accept else .reject, if code = 1 then 0 else reason) := by
  by_cases h1 : code = 1
  · subst h1
    rfl
  · have h2 : code = 2 := by
      by_contra h2
      exact h (.inl ⟨h1, h2⟩)
    subst h2
    exact if_neg fun hr => h (.inr ⟨rfl, hr⟩)

/-- The rows after the first, for a handle 0..7. -/
theorem verdict_of_good {s : State} {g : Handle} {v : VerdictCode × Byte}
    (hv : verdictArgs s.win.args[2] s.win.args[3] = some v) (hg : s.win.args[0] = handleByte g) :
    verdict s = judgeVerdict g s.win.args[1] v s := by
  rw [verdict, hv, hg, handleOfByte_handleByte]

section
variable {s : State} {g : Handle} {v : VerdictCode × Byte} {generation : Byte}

theorem judgeVerdict_of_generation (hn : generation ≠ s.mu.handles[g.val].generation.setWidth 8) :
    judgeVerdict g generation v s = (s, .noEntry) :=
  if_pos hn

variable (hn : generation = s.mu.handles[g.val].generation.setWidth 8)
include hn

theorem judgeVerdict_free (hd : s.deferredAt g = none) :
    judgeVerdict g generation v s = (s, s.mu.handles[g.val].endCause.result) := by
  simp [judgeVerdict, hn, hd]

theorem judgeVerdict_decided {d : Deferred} {x : Decision} (hd : s.deferredAt g = some d) (hx : d.decision = some x) :
    judgeVerdict g generation v s = (s, x.decidedBy.result) := by
  simp [judgeVerdict, hn, hd, hx]

theorem judgeVerdict_open {d : Deferred} (hd : s.deferredAt g = some d) (hx : d.decision = none) :
    judgeVerdict g generation v s = (decideEntry d ⟨v.1, v.2, .software⟩ s, .taken) := by
  simp [judgeVerdict, hn, hd, hx]

end

theorem handle_of_deferredAt {s : State} {g : Handle} {d : Deferred} (h : s.deferredAt g = some d) : d.handle = g := by
  have hd := List.find?_some h
  exact beq_iff_eq.1 hd

/-- Settles O24: the rows of Table 6-3 in their order. -/
theorem verdictResults : Obligations.VerdictResults := by
  intro s h code reason bad
  have hx {t : State} {r : ActionResult} (hv : verdict s = (t, r)) : exec .verdict s = .next (t.acted 0x20 r) := by
    rw [exec_verdict h, hv]
  refine ⟨fun hbad => hx ?_, fun hgood hh => hx ?_, ?_⟩
  · rw [verdict, verdictArgs_of_bad hbad]
  · rw [verdict, verdictArgs_of_good hgood, handleOfByte_eq_none hh]
  intro g hg hgood record
  have hv := verdict_of_good (verdictArgs_of_good hgood) hg
  refine ⟨fun hn => hx (hv.trans (judgeVerdict_of_generation hn)), fun hn => ?_⟩
  have hdecided {d : Deferred} {x : Decision} {who : DecidedBy} (hd : s.deferredAt g = some d)
      (hdec : d.decision = some x) (hby : x.decidedBy = who) : exec .verdict s = .next (s.acted 0x20 who.result) :=
    hby ▸ hx (hv.trans (judgeVerdict_decided hn hd hdec))
  have hfree (hd : s.deferredAt g = none) {cause : EndCause} (hc : record.endCause = cause) :
      exec .verdict s = .next (s.acted 0x20 cause.result) :=
    hc ▸ hx (hv.trans (judgeVerdict_free hn hd))
  refine ⟨fun d hd ho => ?_, fun _ _ => hdecided, fun _ _ => hdecided,
    fun hd => ⟨hfree hd, hfree hd, hfree hd, hfree hd⟩⟩
  rw [hx (hv.trans (judgeVerdict_open hn hd ho)), decideEntry, oweVerdict_eq, handle_of_deferredAt hd]
  simp only [beq_iff_eq]
  rfl

/-! ### A message of a reserved class (R145) -/

/-- The classes that are neither the controller's own nor software's. -/
theorem judgeClass_reserved {cls : Byte} (h : cls = 0 ∨ (4 ≤ cls.toNat ∧ cls.toNat ≤ 15)) (k : Slot)
    (number : BitVec 4) (data : List Byte) (q : Bool) (s : State) :
    judgeClass k cls number data q s = rejectMalformed k cls number s := by
  have hsoft : ¬ 16 ≤ cls.toNat := by
    rcases h with rfl | ⟨-, h⟩
    · decide
    · omega
  have hown : ∀ b : Byte, 1 ≤ b.toNat → b.toNat ≤ 3 → cls ≠ b := by
    rintro b hb1 hb3 rfl
    rcases h with rfl | ⟨h, -⟩
    · exact absurd hb1 (by decide)
    · omega
  rw [judgeClass, if_neg hsoft, if_neg (hown 1 (by decide) (by decide)), if_neg (hown 2 (by decide) (by decide)),
    if_neg (hown 3 (by decide) (by decide))]

theorem told_sched (s : State) (k : Slot) (number : BitVec 4) : (s.told k number).sched = s.sched := by
  unfold State.told
  repeat' split
  all_goals simp

/-- Settles O26: a new message, judged by a class that no row of Table 6-1 handles. -/
theorem reservedMessageClass : Obligations.ReservedMessageClass := by
  intro i c s cls number data q d h hk hs hn hc
  rw [exec_fetch_end h hk, deliverFetch_new hs hn, judgeClass_reserved hc, rejectMalformed, oweReject, oweVerdict_eq,
    entry_setEntry_same, setEntry_table, setEntry_sched, told_table, told_sched, Vector.set_set]
  rfl

end Sys2Proof.Machine
end

section
/-! ## The window's selection and its copies (O10)

A MODULE record is made of fields that are always there (`Entry.getD_bytes_fixed`) and of optional fields, each a
`FieldAt` of the record: present it reads its own bytes, absent it reads 0. -/

namespace Sys2Proof.Machine

/-! ### WSEL, WIDX and WOFF (R177, R179) -/

theorem exec_wselWrite {s : State} (h : s.Running) (value : Byte) :
    exec (.wselWrite value) s = .next (writeWsel value s) :=
  congrArg Host.Outcome.next (whileRunning_running h)

theorem exec_widxWrite {s : State} (h : s.Running) (value : Byte) :
    exec (.widxWrite value) s = .next (writeWidx value s) :=
  congrArg Host.Outcome.next (whileRunning_running h)

theorem exec_woffWrite {s : State} (h : s.Running) (value : Byte) :
    exec (.woffWrite value) s = .next (writeWoff value s) :=
  congrArg Host.Outcome.next (whileRunning_running h)

theorem areaOfByte_code (a : Area) : areaOfByte a.code = some a := by
  cases a <;> rfl

theorem areaOfByte_eq_none {value : Byte} (h : 10 ≤ value.toNat) : areaOfByte value = none := by
  unfold areaOfByte
  split
  case h_11 => rfl
  all_goals omega

theorem isSnapshot_iff (a : Area) : a.isSnapshot = true ↔ a = .module ∨ a = .pages ∨ a = .deferred := by
  cases a <;> decide

/-- The snapshot is written where the area is a snapshot area, and is kept elsewhere. -/
theorem takeCopy_eq (s : State) :
    takeCopy s =
      { s with win :=
        { s.win with
          snapshot :=
            if s.win.area = .module ∨ s.win.area = .pages ∨ s.win.area = .deferred then s.copyOf s.win.area s.win.widx
            else s.win.snapshot } } := by
  simp only [takeCopy, isSnapshot_iff]
  split <;> rfl

theorem writeWsel_code (a : Area) (s : State) :
    writeWsel a.code s = takeCopy { s with win := { s.win with area := a, offset := 0 } } := by
  rw [writeWsel, areaOfByte_code]

theorem writeWsel_refused {value : Byte} (h : 10 ≤ value.toNat) (s : State) : writeWsel value s = refuseAccess s := by
  rw [writeWsel, areaOfByte_eq_none h]

/-! ### What an index selects -/

theorem copyOf_module (i : Slot) (s : State) : s.copyOf .module (slotByte i) = (s.entry i).bytes := by
  rw [State.copyOf, slotOfByte_slotByte]

theorem copyOf_pages (i : Slot) (s : State) :
    s.copyOf .pages (slotByte i) = (s.entry i).pages.flatMap RxPage.bytes := by
  rw [State.copyOf, slotOfByte_slotByte]

theorem copyOf_deferred (h : Handle) (s : State) : s.copyOf .deferred (handleByte h) = s.deferredBytes h := by
  rw [State.copyOf, handleOfByte_handleByte]

theorem copyOf_slot_outside {index : Byte} (h : index = 0 ∨ 30 < index.toNat) (s : State) :
    s.copyOf .module index = [] ∧ s.copyOf .pages index = [] := by
  constructor <;> rw [State.copyOf, slotOfByte_eq_none h]

theorem copyOf_handle_outside {index : Byte} (h : 8 ≤ index.toNat) (s : State) : s.copyOf .deferred index = [] := by
  rw [State.copyOf, handleOfByte_eq_none h]

/-! ### Optional fields -/

/-- From an offset on, n bytes of a record hold an optional field (R192). -/
def FieldAt (record : List Byte) (offset n : Nat) (field : Option (List Byte)) : Prop :=
  ∀ k, k < n → record.getD (offset + k) 0 = (optional n field).getD k 0

section
variable {α : Type} {record : List Byte} {offset n : Nat} {x : Option α} {f : α → List Byte}
  (h : FieldAt record offset n (x.map f))
include h

theorem FieldAt.present {a : α} (hx : x = some a) (k : Nat) (hk : k < n := by decide) :
    record.getD (offset + k) 0 = (f a).getD k 0 := by
  subst hx
  exact (h k hk).trans (getD_optional_some hk _)

theorem FieldAt.absent (hx : x = none) (k : Nat) (hk : k < n := by decide) : record.getD (offset + k) 0 = 0 := by
  subst hx
  exact (h k hk).trans (getD_optional_none hk)

/-- An absent field over the range of its offsets. -/
theorem FieldAt.absent_range (hx : x = none) (k : Nat) (hlo : offset ≤ k) (hhi : k < offset + n) :
    record.getD k 0 = 0 := by
  obtain ⟨j, rfl⟩ := Nat.exists_eq_add_of_le hlo
  exact h.absent hx j (Nat.lt_of_add_lt_add_left hhi)

end

/-! ### Bytes made of flags, and two-byte values -/

/-- The bits of a byte of eight flags. -/
theorem getLsbD_eight (f0 f1 f2 f3 f4 f5 f6 f7 : Bool) :
    let b : Byte :=
      BitVec.ofBool f7 ++ BitVec.ofBool f6 ++ BitVec.ofBool f5 ++ BitVec.ofBool f4 ++ BitVec.ofBool f3 ++
        BitVec.ofBool f2 ++ BitVec.ofBool f1 ++ BitVec.ofBool f0
    b.getLsbD 0 = f0 ∧ b.getLsbD 1 = f1 ∧ b.getLsbD 2 = f2 ∧ b.getLsbD 3 = f3 ∧ b.getLsbD 4 = f4 ∧ b.getLsbD 5 = f5 ∧
      b.getLsbD 6 = f6 ∧ b.getLsbD 7 = f7 := by
  revert f0 f1 f2 f3 f4 f5 f6 f7
  decide

/-- The bits of a byte of four flags. -/
theorem getLsbD_four (f0 f1 f2 f3 : Bool) :
    let b : Byte := 0#4 ++ BitVec.ofBool f3 ++ BitVec.ofBool f2 ++ BitVec.ofBool f1 ++ BitVec.ofBool f0
    b.getLsbD 0 = f0 ∧ b.getLsbD 1 = f1 ∧ b.getLsbD 2 = f2 ∧ b.getLsbD 3 = f3 ∧ b.toNat < 16 := by
  revert f0 f1 f2 f3
  decide

theorem highByte_append_lowByte (w : BitVec 16) : highByte w ++ lowByte w = w :=
  BitVec.extractLsb'_append_extractLsb'

theorem verdictCode_byte (v : VerdictCode) : v.code = if v = .accept then 1 else 2 := by
  cases v <;> rfl

theorem FieldAt.absent_three {α : Type} {record : List Byte} {offset : Nat} {x : Option α} {f : α → List Byte}
    (h : FieldAt record offset 3 (x.map f)) (hx : x = none) :
    record.getD (offset + 0) 0 = 0 ∧ record.getD (offset + 1) 0 = 0 ∧ record.getD (offset + 2) 0 = 0 :=
  ⟨h.absent hx 0, h.absent hx 1, h.absent hx 2⟩

/-- The bytes of a verdict. -/
theorem FieldAt.verdict {α : Type} {record : List Byte} {offset : Nat} {x : Option α} {f : α → Verdict}
    (h : FieldAt record offset 3 (x.map fun a => (f a).bytes)) {a : α} (hx : x = some a) :
    record.getD (offset + 0) 0 = 0#4 ++ (f a).number ∧
      record.getD (offset + 1) 0 = (if (f a).code = .accept then 1 else 2) ∧
      record.getD (offset + 2) 0 = (f a).reason :=
  ⟨(h.present hx 0).trans (setWidth_nibble _), (h.present hx 1).trans (verdictCode_byte _), h.present hx 2⟩

/-! ### The MODULE record (Table 10-4) -/

namespace Entry
variable (e : Entry)

theorem presence1_bits :
    e.presence1.getLsbD 0 = e.cls.isSome ∧ e.presence1.getLsbD 1 = e.basePage.isSome ∧
      e.presence1.getLsbD 2 = e.context?.isSome ∧ (e.presence1.getLsbD 3 = true ↔ ∃ f, e.state = .failed f) ∧
      e.presence1.getLsbD 4 = e.active?.isSome ∧ e.presence1.getLsbD 5 = e.status.isSome ∧
      e.presence1.getLsbD 6 = e.lastNumber.isSome ∧ e.presence1.getLsbD 7 = e.lastVerdict.isSome := by
  obtain ⟨h0, h1, h2, h3, h⟩ := getLsbD_eight e.cls.isSome e.basePage.isSome e.isNegotiating
    (match e.state with
      | .failed _ => true
      | .vacant | .negotiating _ | .active _ | .lost => false)
    e.isActive e.status.isSome e.lastNumber.isSome e.lastVerdict.isSome
  refine ⟨h0, h1, h2, ?_, h⟩
  refine (Bool.eq_iff_iff.1 h3).trans ?_
  cases e.state <;> simp

theorem presence2_bits :
    e.presence2.getLsbD 0 = e.verdictOwed.isSome ∧
      (e.presence2.getLsbD 1 = true ↔ ∃ v, e.verdictOwed = some v ∧ v.renegotiation = true) ∧
      e.presence2.getLsbD 2 = e.outstanding?.isSome ∧ e.presence2.getLsbD 3 = e.record.isSome ∧
      e.presence2.toNat < 16 := by
  obtain ⟨h0, h1, h⟩ := getLsbD_four e.verdictOwed.isSome (e.verdictOwed.any fun v => v.renegotiation)
    e.outstanding?.isSome e.record.isSome
  exact ⟨h0, (Bool.eq_iff_iff.1 h1).trans (by simp [Option.any_eq_true]), h⟩

/-! The optional fields at their offsets. -/

theorem basePage_field : FieldAt e.bytes 7 3 (e.basePage.map fun b => [b.b0, b.b1, b.b2]) := fun k => by
  obtain ⟨h, -⟩ := e.getD_bytes_optional k
  exact h

theorem record_field : FieldAt e.bytes 11 2 (e.record.map fun r => [r.dropped, r.comply]) := fun k => by
  obtain ⟨-, h, -⟩ := e.getD_bytes_optional k
  exact h

theorem active_field :
    FieldAt e.bytes 14 4
      (e.active?.map fun d => [profileByte d.profile, lowByte d.nextDue, highByte d.nextDue, d.standing.code]) := by
  intro k
  obtain ⟨-, -, h, -⟩ := e.getD_bytes_optional k
  exact h

theorem status_field : FieldAt e.bytes 22 7 (e.status.map StatusRecord.bytes) := fun k => by
  obtain ⟨-, -, -, h, -⟩ := e.getD_bytes_optional k
  exact h

theorem lastNumber_field : FieldAt e.bytes 29 1 (e.lastNumber.map fun n => [n.setWidth 8]) := fun k => by
  obtain ⟨-, -, -, -, h, -⟩ := e.getD_bytes_optional k
  exact h

theorem lastVerdict_field : FieldAt e.bytes 30 3 (e.lastVerdict.map Verdict.bytes) := fun k => by
  obtain ⟨-, -, -, -, -, h, -⟩ := e.getD_bytes_optional k
  exact h

theorem verdictOwed_field : FieldAt e.bytes 33 3 (e.verdictOwed.map fun v => v.verdict.bytes) := fun k => by
  obtain ⟨-, -, -, -, -, -, h, -⟩ := e.getD_bytes_optional k
  exact h

theorem context_field : FieldAt e.bytes 36 7 (e.context?.map Context.bytes) := fun k => by
  obtain ⟨-, -, -, -, -, -, -, h, -⟩ := e.getD_bytes_optional k
  exact h

theorem outstanding_field : FieldAt e.bytes 43 30 (e.outstanding?.map Outstanding.bytes) := fun k => by
  obtain ⟨-, -, -, -, -, -, -, -, h, -⟩ := e.getD_bytes_optional k
  exact h

theorem poll_field : FieldAt e.bytes 73 2 (e.active?.map fun d => [d.period, d.alarmBaseline]) := fun k => by
  obtain ⟨-, -, -, -, -, -, -, -, -, h⟩ := e.getD_bytes_optional k
  exact h

/-! The fields with a form of their own. -/

theorem bytes_active {d : ActiveData} (h : e.active? = some d) :
    e.bytes.getD 14 0 = BitVec.ofNat 8 d.profile.val ∧ e.bytes.getD 15 0 = d.nextDue.extractLsb' 0 8 ∧
      e.bytes.getD 16 0 = d.nextDue.extractLsb' 8 8 ∧ e.bytes.getD 17 0 = d.standing.code ∧
      e.bytes.getD 73 0 = d.period ∧ e.bytes.getD 74 0 = d.alarmBaseline :=
  ⟨e.active_field.present h 0, e.active_field.present h 1, e.active_field.present h 2, e.active_field.present h 3,
    e.poll_field.present h 0, e.poll_field.present h 1⟩

theorem bytes_active_absent (h : e.active? = none) {k : Nat} (hk : k ∈ [14, 15, 16, 17, 73, 74]) :
    e.bytes.getD k 0 = 0 := by
  have hk' : (14 ≤ k ∧ k < 14 + 4) ∨ (73 ≤ k ∧ k < 73 + 2) := by
    simp only [List.mem_cons, List.not_mem_nil, or_false] at hk
    omega
  rcases hk' with ⟨hlo, hhi⟩ | ⟨hlo, hhi⟩
  · exact e.active_field.absent_range h k hlo hhi
  · exact e.poll_field.absent_range h k hlo hhi

theorem bytes_status {r : StatusRecord} (h : e.status = some r) :
    e.bytes.getD 22 0 = r.state ∧ e.bytes.getD 23 0 = r.alarm ∧ e.bytes.getD 24 0 = 0#4 ++ r.pending ∧
      e.bytes.getD 25 0 = r.r0 ∧ e.bytes.getD 26 0 = r.r1 ∧ e.bytes.getD 27 0 = r.r2 ∧ e.bytes.getD 28 0 = r.r3 :=
  have hb (k : Nat) (hk : k < 7 := by decide) := e.status_field.present h k hk
  ⟨hb 0, hb 1, (hb 2).trans (setWidth_nibble _), hb 3, hb 4, hb 5, hb 6⟩

/-- The last message number, whose absence reads as 0. -/
theorem bytes_lastNumber : e.bytes.getD 29 0 = 0#4 ++ e.lastNumber.getD 0 := by
  cases h : e.lastNumber with
  | none => exact e.lastNumber_field.absent h 0
  | some n => exact (e.lastNumber_field.present h 0).trans (setWidth_nibble n)

/-- The cause of a FAILED entry, 0 in any other state. -/
theorem bytes_failed {f : FaultCode} (h : e.state = .failed f) : e.bytes.getD 13 0 = f.code := by
  obtain ⟨-, -, -, -, -, -, -, -, h13, -⟩ := e.getD_bytes_fixed
  rw [h13, h]

theorem bytes_not_failed (h : ∀ f, e.state ≠ .failed f) : e.bytes.getD 13 0 = 0 := by
  obtain ⟨-, -, -, -, -, -, -, -, h13, -⟩ := e.getD_bytes_fixed
  rw [h13]
  cases hs : e.state with
  | failed f => exact absurd hs (h f)
  | vacant | negotiating _ | active _ | lost => rfl

theorem bytes_payload {o : Outstanding} (h : e.outstanding? = some o) {n : Nat} (hn : n < 24) :
    e.bytes.getD (49 + n) 0 = o.held.cmd.payload.getD n 0 := by
  have hoff : 49 + n = 43 + (6 + n) := by omega
  rw [hoff, e.outstanding_field.present h (6 + n) (by omega), Outstanding.bytes,
    getD_append_at (k := n) (by simp), getD_padded hn]

theorem bytes_outstanding {o : Outstanding} (h : e.outstanding? = some o) :
    e.bytes.getD 43 0 = o.held.cmd.tag ∧ e.bytes.getD 44 0 = o.held.cmd.code ∧
      e.bytes.getD 45 0 = byteOfNat o.held.cmd.payload.length ∧
      e.bytes.getD 47 0 ++ e.bytes.getD 46 0 = BitVec.ofNat 16 (o.held.remaining.getD 0) ∧
      e.bytes.getD 48 0 = byteOfBool o.seq ∧ ∀ n, n < 24 → e.bytes.getD (49 + n) 0 = o.held.cmd.payload.getD n 0 :=
  have hb (k : Nat) (hk : k < 30 := by decide) := e.outstanding_field.present h k hk
  have hdeadline : e.bytes.getD 47 0 ++ e.bytes.getD 46 0 = BitVec.ofNat 16 (o.held.remaining.getD 0) :=
    (congrArg₂ (· ++ ·) (hb 4) (hb 3)).trans (highByte_append_lowByte _)
  ⟨hb 0, hb 1, hb 2, hdeadline, hb 5, fun _ => e.bytes_payload h⟩

end Entry

/-! ### A negotiation context (Table 10-4, offsets 36 to 42) -/

section
variable (x : Context)

theorem Context.flags_bits :
    x.flags.getLsbD 0 = x.localDone ∧ x.flags.getLsbD 1 = x.localToggle ∧
      x.flags.getLsbD 2 = x.moduleToggle.getD false ∧ x.flags.getLsbD 3 = x.moduleToggle.isSome ∧
      x.flags.getLsbD 4 = x.finalSeen ∧ x.flags.getLsbD 5 = (x.ack.getD ⟨false, false⟩).toggle ∧
      x.flags.getLsbD 6 = (x.ack.getD ⟨false, false⟩).comply ∧ x.flags.getLsbD 7 = x.ack.isSome :=
  getLsbD_eight ..

/-- The phase and the proposed profile stand at the two ends of a context. -/
theorem Context.bytes_phase_exchange (h : x.phase = .exchange) : x.bytes.getD 0 0 = 0 ∧ x.bytes.getD 6 0 = 0 := by
  rw [Context.bytes, h]
  exact ⟨rfl, rfl⟩

theorem Context.bytes_phase_settle {p : Profile} (h : x.phase = .settle p) :
    x.bytes.getD 0 0 = 1 ∧ x.bytes.getD 6 0 = BitVec.ofNat 8 p.val := by
  rw [Context.bytes, h]
  exact ⟨rfl, rfl⟩

end

theorem Entry.bytes_context {e : Entry} {x : Context} (h : e.context? = some x) :
    (x.phase = .exchange → e.bytes.getD 36 0 = 0 ∧ e.bytes.getD 42 0 = 0) ∧
      (∀ p, x.phase = .settle p → e.bytes.getD 36 0 = 1 ∧ e.bytes.getD 42 0 = BitVec.ofNat 8 p.val) ∧
      e.bytes.getD 37 0 = BitVec.ofNat 8 x.steps ∧ e.bytes.getD 38 0 = BitVec.ofNat 8 x.localIndex ∧
      e.bytes.getD 39 0 = x.flags ∧ e.bytes.getD 40 0 = BitVec.ofNat 8 x.argsLeft ∧
      e.bytes.getD 41 0 = byteOfBool x.fresh :=
  have hb (k : Nat) (hk : k < 7 := by decide) := e.context_field.present h k hk
  have ends {u v : Byte} :
      x.bytes.getD 0 0 = u ∧ x.bytes.getD 6 0 = v → e.bytes.getD 36 0 = u ∧ e.bytes.getD 42 0 = v :=
    And.imp (hb 0).trans (hb 6).trans
  ⟨fun hp => ends (x.bytes_phase_exchange hp), fun _ hp => ends (x.bytes_phase_settle hp), hb 1, hb 2, hb 3, hb 4, hb 5⟩

/-! ### PAGES (Table 10-5) and DEFERRED (Table 10-6) -/

/-- The six bytes of a received page. -/
theorem rxPage_bytes (p : RxPage) :
    p.bytes =
      [(match p.kind with
        | .base => 0
        | .message => 1
        | .unformatted => 2
        | .null => 3), p.body.b0, p.body.b1, p.body.b2, p.body.b3, byteOfBool p.comply] := by
  unfold RxPage.bytes
  cases p.kind <;> rfl

theorem deferredBytes_free {h : Handle} {s : State} (hfree : ∀ d ∈ s.mu.queue, d.handle ≠ h) :
    s.deferredBytes h = s.mu.handles[h.val].freeBytes := by
  have hnone : s.deferredAt h = none := by
    rw [State.deferredAt, List.find?_eq_none]
    simpa using hfree
  rw [State.deferredBytes, hnone]

theorem deferredBytes_held {h : Handle} {s : State} {d : Deferred} (hd : s.deferredAt h = some d) :
    s.deferredBytes h = d.bytes s.mu.handles[h.val].generation := by
  rw [State.deferredBytes, hd]

/-- The record of a free handle: its generation and its end-cause (R158). -/
theorem freeBytes_eq (r : HandleRecord) :
    r.freeBytes =
      [0, 0#4 ++ r.generation, 0,
        (match r.endCause with
          | .none => 0
          | .software => 1
          | .timeout => 2
          | .gone => 3)] ++
        List.replicate 37 0 := by
  rw [HandleRecord.freeBytes, setWidth_nibble]
  cases r.endCause <;> rfl

namespace Deferred
variable (d : Deferred) (generation : BitVec 4)

theorem length_bytes : (d.bytes generation).length = 41 := by
  cases h : d.decision <;> simp [Deferred.bytes, h]

/-- The bytes that every entry shows in one way. -/
theorem getD_bytes_fixed :
    (d.bytes generation).getD 0 0 = BitVec.ofNat 8 d.handle.val ∧ (d.bytes generation).getD 1 0 = 0#4 ++ generation ∧
      (d.bytes generation).getD 3 0 = 0 ∧ (d.bytes generation).getD 4 0 = slotByte d.slot ∧
      (d.bytes generation).getD 5 0 = d.cls ∧ (d.bytes generation).getD 6 0 = 0#4 ++ d.number ∧
      (d.bytes generation).getD 7 0 = byteOfNat d.data.length ∧
      (d.bytes generation).getD 12 0 ++ (d.bytes generation).getD 11 0 = BitVec.ofNat 16 d.age := by
  unfold Deferred.bytes
  cases d.decision <;>
    exact ⟨rfl, setWidth_nibble _, rfl, rfl, rfl, setWidth_nibble _, rfl, highByte_append_lowByte _⟩

theorem getD_bytes_open (h : d.decision = none) :
    (d.bytes generation).getD 2 0 = 1 ∧ (d.bytes generation).getD 8 0 = 0 ∧ (d.bytes generation).getD 9 0 = 0 ∧
      (d.bytes generation).getD 10 0 = 0 := by
  rw [Deferred.bytes, h]
  exact ⟨rfl, rfl, rfl, rfl⟩

theorem getD_bytes_decided {x : Decision} (h : d.decision = some x) :
    (d.bytes generation).getD 2 0 = 2 ∧ (d.bytes generation).getD 8 0 = x.code.code ∧
      (d.bytes generation).getD 9 0 = x.reason ∧ (d.bytes generation).getD 10 0 = x.decidedBy.code := by
  rw [Deferred.bytes, h]
  exact ⟨rfl, rfl, rfl, rfl⟩

theorem getD_bytes_state : (d.bytes generation).getD 2 0 = if d.decision = none then 1 else 2 := by
  cases h : d.decision with
  | none => exact (d.getD_bytes_open generation h).1
  | some x => exact (d.getD_bytes_decided generation h).1

theorem getD_bytes_data {n : Nat} (hn : n < 28) : (d.bytes generation).getD (13 + n) 0 = d.data.getD n 0 := by
  rw [Deferred.bytes, getD_append_at (k := n) (by cases d.decision <;> simp), getD_padded hn]

end Deferred

theorem decidedBy_byte (w : DecidedBy) : w.code = if w = .software then 1 else 2 := by
  cases w <;> rfl

/-! ### The claim -/

/-- Settles O10: the three writes, the record an index selects, and each record field by field. -/
theorem windowSelectionAndCopies : Obligations.WindowSelectionAndCopies := by
  refine ⟨⟨fun value s h hv => ?_, fun a s h => ?_, fun value s h => ?_, fun value s h => exec_woffWrite h value⟩,
    ⟨fun i s => ?_, fun i s => ?_, fun h s hfree => ?_, fun h d s hd => ?_, fun _ s h => copyOf_slot_outside h s,
      fun _ s h => copyOf_handle_outside h s⟩,
    fun _ => rfl, fun _ => rfl, fun _ => rfl, rfl, rfl, fun _ => ⟨rfl, rfl⟩⟩
  · rw [exec_wselWrite h, writeWsel_refused hv]
    rfl
  · change exec (.wselWrite a.code) s = _
    rw [exec_wselWrite h, writeWsel_code, takeCopy_eq]
    rfl
  · rw [exec_widxWrite h, writeWidx, takeCopy_eq]
    rfl
  · rw [copyOf_module]
    intro e b
    obtain ⟨h0, h1, h2, h3, h4, h5, h6, h10, -, h18, h19, h20, h21, hrest⟩ := e.getD_bytes_fixed
    have hb1 : b 1 = e.presence1 := h1
    have hb2 : b 2 = e.presence2 := h2
    refine ⟨e.length_bytes, ?state, ?presence1, ?presence2, h3, h4, h5, h6.trans (setWidth_nibble _),
      fun p hp => ?basePage, fun hn => e.basePage_field.absent_three hn, h10, fun r hr => ?record, fun hn => ?noRecord,
      fun f hf => e.bytes_failed hf, e.bytes_not_failed, fun d hd => e.bytes_active hd,
      fun hn k => e.bytes_active_absent hn, h18, h19, h20, h21, fun r hr => e.bytes_status hr,
      fun hn k hlo hhi => e.status_field.absent_range hn k hlo (by omega),
      e.bytes_lastNumber, fun v hv => e.lastVerdict_field.verdict hv, fun hn => e.lastVerdict_field.absent_three hn,
      fun v hv => e.verdictOwed_field.verdict hv, fun hn => e.verdictOwed_field.absent_three hn, fun x hx => ?context,
      fun hn k hlo hhi => e.context_field.absent_range hn k hlo (by omega), fun o ho => e.bytes_outstanding ho,
      fun hn k hlo hhi => e.outstanding_field.absent_range hn k hlo (by omega), hrest⟩
    case state =>
      refine h0.trans ?_
      cases e.state <;> rfl
    case presence1 =>
      rw [hb1]
      exact e.presence1_bits
    case presence2 =>
      rw [hb2]
      exact e.presence2_bits
    case basePage =>
      have hb (k : Nat) (hk : k < 3 := by decide) := e.basePage_field.present hp k hk
      exact ⟨hb 0, hb 1, hb 2⟩
    case record => exact ⟨e.record_field.present hr 0, e.record_field.present hr 1⟩
    case noRecord => exact ⟨e.record_field.absent hn 0, e.record_field.absent hn 1⟩
    case context =>
      obtain ⟨hex, hset, h37, h38, h39, h40, h41⟩ := Entry.bytes_context hx
      obtain ⟨f0, f1, f2, f3, f4, f5, f6, f7⟩ := x.flags_bits
      have hb39 : b 39 = x.flags := h39
      rw [hb39]
      refine ⟨hex, hset, h37, h38, f0, f1, f2, f3, f4, fun ha => ?_, fun a ha => ?_, h40, h41⟩
      · rw [ha] at f5 f6 f7
        exact ⟨f5, f6, f7⟩
      · rw [ha] at f5 f6 f7
        exact ⟨f5, f6, f7⟩
  · rw [copyOf_pages]
    exact congrArg (fun f => (s.entry i).pages.flatMap f) (funext rxPage_bytes)
  · rw [copyOf_deferred, deferredBytes_free hfree]
    exact freeBytes_eq _
  · rw [copyOf_deferred, deferredBytes_held hd, ← handle_of_deferredAt hd]
    obtain ⟨h0, h1, h3, h4, h5, h6, h7, hage⟩ := d.getD_bytes_fixed s.mu.handles[d.handle.val].generation
    refine ⟨d.length_bytes _, h0, h1, d.getD_bytes_state _, h3, h4, h5, h6, h7, fun hn => ?_, fun x hx => ?_, hage,
      fun n => d.getD_bytes_data _⟩
    · obtain ⟨-, h⟩ := d.getD_bytes_open _ hn
      exact h
    · obtain ⟨-, h8, h9, h10⟩ := d.getD_bytes_decided _ hx
      exact ⟨h8.trans (verdictCode_byte _), h9, h10.trans (decidedBy_byte _)⟩

end Sys2Proof.Machine
end

section
/-! ## The notice queue (O55)

The shared operations keep the bounds of the queue (Laws/Notices.lean), since posting does. What is left is POP_NOTICE,
which alone takes notices out, and that every action, write and event of the line is made of those operations or leaves
the queue alone. -/

namespace Sys2Proof.Machine

/-! ### The actions -/

theorem enableLink_noticesOk (l : Level) {s : State} (h : NoticesOk s) : NoticesOk (enableLink l s).1 := by
  unfold enableLink
  split
  · split
    · split
      · exact noticesOk_of_nq rfl h
      · exact takeFault_noticesOk h
    · exact h
  all_goals exact h

theorem disableLink_nq (s : State) : (disableLink s).1.nq = s.nq := by
  unfold disableLink
  repeat' split
  all_goals rfl

theorem restartLink_noticesOk {s : State} (h : NoticesOk s) : NoticesOk (restartLink s).1 := by
  unfold restartLink
  split
  · exact h
  · exact beginRestart_noticesOk h
  all_goals exact noticesOk_of_nq rfl h

theorem submit_nq (s : State) : (submit s).1.nq = s.nq := by
  unfold submit
  split <;> simp

theorem cancel_nq (s : State) : (cancel s).1.nq = s.nq := by
  unfold cancel cancelFound
  split <;> simp

theorem popCompletion_nq (s : State) : (popCompletion s).1.nq = s.nq := by
  unfold popCompletion
  split <;> simp

theorem judgeVerdict_nq (g : Handle) (generation : Byte) (v : VerdictCode × Byte) (s : State) :
    (judgeVerdict g generation v s).1.nq = s.nq := by
  unfold judgeVerdict
  repeat' split
  all_goals simp

theorem verdict_nq (s : State) : (verdict s).1.nq = s.nq := by
  unfold verdict
  split
  · rfl
  split
  · rfl
  · exact judgeVerdict_nq _ _ _ s

theorem detachSlot_noticesOk (i : Slot) {s : State} (h : NoticesOk s) : NoticesOk (detachSlot i s).1 := by
  have hv := enterVacant_noticesOk i .detached h
  unfold detachSlot
  split
  · exact h
  all_goals exact noticesOk_of_nq (by simp) hv

theorem releaseSlot_noticesOk (i : Slot) {s : State} (h : NoticesOk s) : NoticesOk (releaseSlot i s).1 := by
  have hv := enterVacant_noticesOk i .detached h
  unfold releaseSlot
  split
  · exact noticesOk_of_nq (by simp) hv
  · exact hv
  all_goals exact h

theorem renegotiateSlot_noticesOk (i : Slot) {s : State} (h : NoticesOk s) : NoticesOk (renegotiateSlot i s).1 := by
  unfold renegotiateSlot
  split
  · exact renegotiate_noticesOk i 2 h
  all_goals exact h

/-! ### POP_NOTICE (R165, R167) -/

theorem popNotice_of_nil {s : State} (hn : s.nq.notices = []) : popNotice s = (s, .empty) := by
  rw [popNotice, hn]

theorem popNotice_of_none_lost {s : State} {n : Notice} {rest : List Notice} (hn : s.nq.notices = n :: rest)
    (hl : s.nq.lost = 0) : popNotice s = ({ s with nq := ⟨rest, 0⟩ }, .done) := by
  simp [popNotice, hn, hl]

/-- The freed place is taken by the NOTICES_LOST that carries the lost count (R165). -/
theorem popNotice_of_lost {s : State} {n : Notice} {rest : List Notice} (hn : s.nq.notices = n :: rest)
    (hl : 0 < s.nq.lost) :
    popNotice s =
      ({ s with nq := ⟨rest ++ [⟨.noticesLost, 0, byteOfNat s.nq.lost, s.sched.mscount⟩], 0⟩ }, .done) := by
  rw [popNotice, hn]
  exact if_neg (Nat.ne_of_gt hl)

theorem noticesOk_of_none_lost {s : State} (hn : s.nq.notices.length ≤ 32) (hl : s.nq.lost = 0) : NoticesOk s :=
  ⟨hn, hl ▸ Nat.zero_le 255, fun h => absurd hl (Nat.ne_of_gt h)⟩

/-- A pop leaves the lost count 0: it was 0, or the pop cleared it. -/
theorem popNotice_noticesOk {s : State} (h : NoticesOk s) : NoticesOk (popNotice s).1 := by
  have hlen := h.1
  cases hn : s.nq.notices with
  | nil =>
    rw [popNotice_of_nil hn]
    exact h
  | cons n rest =>
    rw [hn, List.length_cons] at hlen
    rcases Nat.eq_zero_or_pos s.nq.lost with hl | hl
    · rw [popNotice_of_none_lost hn hl]
      exact noticesOk_of_none_lost (Nat.le_of_succ_le hlen) rfl
    · rw [popNotice_of_lost hn hl]
      exact noticesOk_of_none_lost (by simpa using hlen) rfl

/-! ### The writes -/

theorem writeRate_nq (c : BitVec 2) (s : State) : (writeRate c s).nq = s.nq := by
  unfold writeRate
  repeat' split
  all_goals rfl

theorem writeModule_nq {v : Byte} {s t : State} (ht : writeModule v s = some t) : t.nq = s.nq := by
  unfold writeModule at ht
  split at ht
  · cases ht
  · dsimp only at ht
    split at ht
    · obtain ⟨-, ⟨⟩⟩ := Option.ite_none_right_eq_some.1 ht
      rfl
    · obtain ⟨-, ⟨⟩⟩ := Option.ite_none_left_eq_some.1 ht
      rfl
    · cases ht

theorem writeLocalPage_nq {v : Byte} {s t : State} (ht : writeLocalPage v s = some t) : t.nq = s.nq := by
  unfold writeLocalPage at ht
  split at ht
  · obtain ⟨p, -, rfl⟩ := Option.map_eq_some_iff.1 ht
    rfl
  · cases ht

theorem writeParam_nq {v : Byte} {s t : State} (ht : writeParam v s = some t) : t.nq = s.nq := by
  unfold writeParam at ht
  split at ht
  case h_7 => cases ht
  all_goals
    obtain ⟨-, ⟨⟩⟩ := Option.ite_none_right_eq_some.1 ht
    rfl

/-- No area that takes a write holds a notice (Table 8-4). -/
theorem writeArea_nq {v : Byte} {s t : State} (ht : writeArea v s = some t) : t.nq = s.nq := by
  unfold writeArea at ht
  split at ht
  · exact writeModule_nq ht
  · exact writeLocalPage_nq ht
  · obtain ⟨-, ⟨⟩⟩ := Option.ite_none_right_eq_some.1 ht
    rfl
  · obtain ⟨-, ⟨⟩⟩ := Option.dite_none_right_eq_some.1 ht
    rfl
  · obtain ⟨g, -, rfl⟩ := Option.map_eq_some_iff.1 ht
    rfl
  · exact writeParam_nq ht
  all_goals cases ht

/-! ### The line and the time -/

theorem lineFault_noticesOk (c : FaultCause) {s : State} (h : NoticesOk s) : NoticesOk (lineFault c s) := by
  unfold lineFault
  split
  case h_1 => exact h
  case h_2 =>
    split
    · exact noticesOk_of_nq rfl h
    · exact h
  all_goals
    split
    · exact takeFault_noticesOk h
    · exact h

theorem leaveFault_noticesOk {s : State} (h : NoticesOk s) : NoticesOk (leaveFault s) := by
  unfold leaveFault
  repeat' split
  · exact noticesOk_of_nq (by simp) h
  · exact noticesOk_of_nq (by simp) h
  · exact afterWork_noticesOk h

theorem lineRestored_noticesOk {s : State} (h : NoticesOk s) : NoticesOk (lineRestored s) := by
  unfold lineRestored
  split
  · split
    · exact leaveFault_noticesOk (post_noticesOk _ _ _ h)
    · exact h
  all_goals exact h

theorem quietTimeRestart_nq (c : QuietBreak) (s : State) : (quietTimeRestart c s).nq = s.nq := by
  unfold quietTimeRestart breakPins
  repeat' split
  all_goals rfl

theorem callSent_nq (s : State) : (callSent s).nq = s.nq := by
  unfold callSent
  repeat' split
  all_goals rfl

theorem replyStartBit_nq (s : State) : (replyStartBit s).nq = s.nq := by
  unfold replyStartBit
  split <;> rfl

theorem retryGapEnd_nq (s : State) : (retryGapEnd s).nq = s.nq := by
  unfold retryGapEnd
  split <;> rfl

theorem broadcastEnd_noticesOk {s : State} (h : NoticesOk s) : NoticesOk (broadcastEnd s) := by
  unfold broadcastEnd
  split
  · exact afterWork_noticesOk h
  all_goals exact h

/-- A reset leaves no notice and none lost (R168). -/
theorem noticesOk_of_empty {s : State} (h : s.nq = NoticeQueue.reset) : NoticesOk s :=
  noticesOk_of_none_lost (h ▸ Nat.zero_le 32) (h ▸ rfl)

theorem kept_noticesOk : Kept NoticesOk where
  pending _ h := h
  pins _ h := h
  win _ _ h := h
  holding _ h := h
  enableLink l := enableLink_noticesOk l
  disableLink := noticesOk_of_nq (disableLink_nq _)
  restartLink := restartLink_noticesOk
  submit := noticesOk_of_nq (submit_nq _)
  cancel := noticesOk_of_nq (cancel_nq _)
  popCompletion := noticesOk_of_nq (popCompletion_nq _)
  verdict := noticesOk_of_nq (verdict_nq _)
  popNotice := popNotice_noticesOk
  detachSlot i := detachSlot_noticesOk i
  releaseSlot i := releaseSlot_noticesOk i
  renegotiateSlot i := renegotiateSlot_noticesOk i
  softReset _ := noticesOk_of_empty rfl
  pinReset _ := noticesOk_of_empty rfl
  writeRate c := noticesOk_of_nq (writeRate_nq c _)
  writeArea _ h ht := noticesOk_of_nq (writeArea_nq ht) h
  lineFault c := lineFault_noticesOk c
  lineRestored := lineRestored_noticesOk
  quietTimeRestart c := noticesOk_of_nq (quietTimeRestart_nq c _)
  msTick l r := noticesOk_of_nq (msTick_nq l r _)
  updActive _ _ _ := noticesOk_of_nq (updEntry_nq _ _ _)
  expireCommands := noticesOk_of_nq (expireCommands_nq _)
  timeOutAll := timeOutFold_noticesOk _
  chooseCall := noticesOk_of_nq (chooseCall_nq _)
  callSent := noticesOk_of_nq (callSent_nq _)
  replyStartBit := noticesOk_of_nq (replyStartBit_nq _)
  retryGapEnd := noticesOk_of_nq (retryGapEnd_nq _)
  endAttempt o _ := endAttempt_noticesOk o
  broadcastEnd := broadcastEnd_noticesOk

/-- Settles O55: the notice queue is kept in bounds by every operation, so by every step. -/
theorem stepKeepsNoticesOk : Obligations.StepKeepsNoticesOk := fun _ _ h hs => kept_noticesOk.step h hs

end Sys2Proof.Machine
end

section
/-! ## Notices posted and popped (O16) -/

namespace Sys2Proof.Machine

theorem post_of_room (k : NoticeKind) (a b : Byte) {s : State} (h : s.nq.notices.length < 32) :
    post k a b s = { s with nq := { s.nq with notices := s.nq.notices ++ [⟨k, a, b, s.sched.mscount⟩] } } := by
  rw [post_eq, post_nq_of_room k a b s h]

theorem post_of_full (k : NoticeKind) (a b : Byte) {s : State} (h : 32 ≤ s.nq.notices.length) :
    post k a b s = { s with nq := { s.nq with lost := min (s.nq.lost + 1) 255 } } := by
  rw [post_eq, post_nq_of_full k a b s h]

theorem exec_popNotice {s : State} (h : s.Running) :
    exec .popNotice s = .next ((popNotice s).1.acted 0x21 (popNotice s).2) :=
  congrArg Host.Outcome.next (whileRunning_running h)

/-- Settles O16: posting by the room there is, and POP_NOTICE by the queue and the lost count. -/
theorem noticesPostedAndPopped : Obligations.NoticesPostedAndPopped := by
  refine ⟨fun k a b s => ⟨post_of_room k a b, post_of_full k a b⟩,
    fun s h => ⟨fun hn => ?_, fun n rest hn hl => ?_, fun n rest hn hl => ?_⟩⟩
  · rw [exec_popNotice h, popNotice_of_nil hn]
  · rw [exec_popNotice h, popNotice_of_none_lost hn hl]
  · rw [exec_popNotice h, popNotice_of_lost hn hl]
    rfl

end Sys2Proof.Machine
end

section
/-! ## The interrupt line (O8) -/

namespace Sys2Proof.Machine

/-! ### The sources (R169) -/

theorem noticeSource_iff (s : State) : s.noticeSource = true ↔ s.nq.notices ≠ [] := by
  simp [State.noticeSource]

theorem completionSource_iff (s : State) : s.completionSource = true ↔ s.ce.completions ≠ [] := by
  simp [State.completionSource]

theorem decisionSource_iff (s : State) : s.decisionSource = true ↔ ∃ d ∈ s.mu.queue, d.decision = none := by
  simp [State.decisionSource]

theorem lineSource_iff (s : State) : s.lineSource = true ↔ s.link.state = .fault := by
  simp [State.lineSource]

/-! ### The line (R171) -/

/-- Four flags and four enables meet where a flag and the enable at its bit are both set. -/
theorem fourFlags_and_ne_zero (f3 f2 f1 f0 : Bool) (e : BitVec 4) :
    (BitVec.ofBool f3 ++ BitVec.ofBool f2 ++ BitVec.ofBool f1 ++ BitVec.ofBool f0) &&& e ≠ 0 ↔
      (f0 = true ∧ e.getLsbD 0 = true) ∨ (f1 = true ∧ e.getLsbD 1 = true) ∨ (f2 = true ∧ e.getLsbD 2 = true) ∨
        (f3 = true ∧ e.getLsbD 3 = true) := by
  revert f3 f2 f1 f0 e
  decide

/-- Settles O8: the sources and the enables meet at the bit of a source. -/
theorem intnFollowsSources : Obligations.IntnFollowsSources := by
  intro s
  rw [State.intnLow, Bool.and_eq_true, beq_iff_eq, bne_iff_ne, State.sources, fourFlags_and_ne_zero, noticeSource_iff,
    completionSource_iff, decisionSource_iff, lineSource_iff]

end Sys2Proof.Machine
end

section
/-! ## Reads of WDAT (O11) -/

namespace Sys2Proof.Machine

theorem exec_wdatRead {s : State} (h : s.Running) :
    exec .wdatRead s = .next (stepOffset (driveData s.windowByte s)) := by
  change execWdatRead s = _
  rw [execWdatRead, h]

/-! ### The byte of each area (R178, R180, Table 8-2) -/

section
variable {s : State}

theorem windowByte_snapshot (ha : s.win.area = .module ∨ s.win.area = .pages ∨ s.win.area = .deferred) :
    s.windowByte = s.win.snapshot.getD s.win.offset 0 := by
  rcases ha with ha | ha | ha <;> rw [State.windowByte, ha]

theorem windowByte_notice_nil (ha : s.win.area = .notice) (hn : s.nq.notices = []) : s.windowByte = 0 := by
  rw [State.windowByte, ha, hn]

theorem windowByte_notice_cons {n : Notice} {rest : List Notice} (ha : s.win.area = .notice)
    (hn : s.nq.notices = n :: rest) : s.windowByte = n.bytes.getD s.win.offset 0 := by
  rw [State.windowByte, ha, hn]

theorem windowByte_completion_nil (ha : s.win.area = .completion) (hc : s.ce.completions = []) :
    s.windowByte = 0 := by
  rw [State.windowByte, ha, hc]

theorem windowByte_completion_cons {c : Completion} {rest : List Completion} (ha : s.win.area = .completion)
    (hc : s.ce.completions = c :: rest) : s.windowByte = c.bytes.getD s.win.offset 0 := by
  rw [State.windowByte, ha, hc]

theorem windowByte_staging (ha : s.win.area = .staging) :
    s.windowByte = s.win.staging.bytes.getD s.win.offset 0 := by
  rw [State.windowByte, ha]

theorem windowByte_params (ha : s.win.area = .params) : s.windowByte = s.paramBytes.getD s.win.offset 0 := by
  rw [State.windowByte, ha]

theorem windowByte_accept (ha : s.win.area = .accept) :
    s.windowByte = byteOfBool (s.px.accept.getLsbD s.win.offset) := by
  rw [State.windowByte, ha]

theorem windowByte_classFilter (ha : s.win.area = .classFilter) :
    s.windowByte = s.px.filter.toList.getD s.win.offset 0 := by
  rw [State.windowByte, ha]

theorem windowByte_localPage (ha : s.win.area = .localPage) (h : s.win.widx.toNat < 8) :
    s.windowByte = s.px.pages[s.win.widx.toNat].bytes.getD s.win.offset 0 := by
  rw [State.windowByte, ha]
  simp only [Vector.getElem?_eq_getElem h]

/-- An index past the list selects no entry (log 14). -/
theorem windowByte_localPage_outside (ha : s.win.area = .localPage) (h : 8 ≤ s.win.widx.toNat) : s.windowByte = 0 := by
  rw [State.windowByte, ha]
  simp only [Vector.getElem?_eq_none h]

end

/-! ### The records -/

/-- Data that fits its field reads the same there, and 0 past its end (R193). -/
theorem getD_padded_of_fits {d : List Byte} {n : Nat} (h : d.length ≤ n) (k : Nat) :
    (padded n d).getD k 0 = d.getD k 0 := by
  rcases Nat.lt_or_ge k n with hk | hk
  · exact getD_padded hk d
  · rw [List.getD_eq_default _ _ ((length_padded n d).trans_le hk), List.getD_eq_default _ _ (h.trans hk)]

/-- The byte of a COMPLETION record, whose data is shown in a field of 24 bytes (Table 10-6). -/
theorem Completion.getD_bytes {c : Completion} (h : c.data.length ≤ 24) (k : Nat) :
    c.bytes.getD k 0 =
      ([c.tag, slotByte c.target, c.code, c.status.code, c.detail, byteOfNat c.data.length] ++ c.data).getD k 0 := by
  unfold Completion.bytes
  rcases Nat.lt_or_ge k 6 with hk | hk
  · rw [getD_append_in hk, getD_append_in hk]
  · obtain ⟨j, rfl⟩ := Nat.exists_eq_add_of_le hk
    rw [getD_append_at (k := j) (by simp), getD_append_at (k := j) (by simp), getD_padded_of_fits h]

/-- The six bytes of an entry of the local page list (Table 10-5). -/
theorem localPage_bytes (p : LocalPage) :
    p.bytes =
      [(match p.kind with
        | .base => 0
        | .message => 1
        | .unformatted => 2
        | .null => 3), p.body.b0, p.body.b1, p.body.b2, p.body.b3, byteOfBool p.required] := by
  unfold LocalPage.bytes
  cases p.kind <;> rfl

/-- Settles O11: the read as one write of the pins and of the window, then the byte area by area. -/
theorem wdatRead : Obligations.WdatRead := by
  intro s h
  refine ⟨exec_wdatRead h, windowByte_snapshot, windowByte_notice_nil, fun n rest ha hn => ?_,
    windowByte_completion_nil, fun c rest ha hc hd => ?_, windowByte_staging, windowByte_params, windowByte_accept,
    windowByte_classFilter, fun hx ha => ?_, windowByte_localPage_outside⟩
  · exact windowByte_notice_cons ha hn
  · exact (windowByte_completion_cons ha hc).trans (Completion.getD_bytes hd _)
  · exact (windowByte_localPage ha hx).trans (congrArg (List.getD · s.win.offset 0) (localPage_bytes _))

end Sys2Proof.Machine
end

section
/-! ## The window and the commands (O1, O5, O6, O7)

Every event leaves the window as it was, and so does what an action does before its code and its result are written to
ACT and ARES. -/

namespace Sys2Proof.Machine

/-- Operations that leave the register window alone. -/
def WinKept (f : State → State) : Prop := ∀ s, (f s).win = s.win

theorem whileRunning_win {f : State → State} (hf : WinKept f) : WinKept (whileRunning f) := fun s => by
  unfold whileRunning
  split
  · exact hf s
  · rfl

/-! ### The actions (R183) -/

/-- An action whose effect leaves the window alone; ACT and ARES are written after it. -/
def ActionKeepsWin (f : State → State × ActionResult) : Prop := ∀ s, (f s).1.win = s.win

theorem runAction_win {f : State → State × ActionResult} (hf : ActionKeepsWin f) (code : Byte) (s : State) :
    (runAction code f s).win = { s.win with act := code, ares := (f s).2 } := by
  rw [← hf s]
  rfl

theorem onSlot_win {f : Slot → State → State × ActionResult} (hf : ∀ i, ActionKeepsWin (f i)) :
    ActionKeepsWin (onSlot f) := fun s => by
  unfold onSlot
  split
  · rfl
  · exact hf _ s

theorem enableLink_win (l : Level) : ActionKeepsWin (enableLink l) := fun s => by
  unfold enableLink
  repeat' split
  all_goals simp

theorem disableLink_win : ActionKeepsWin disableLink := fun s => by
  unfold disableLink
  repeat' split
  all_goals rfl

theorem restartLink_win : ActionKeepsWin restartLink := fun s => by
  unfold restartLink
  split <;> simp

theorem submit_win : ActionKeepsWin submit := fun s => by
  unfold submit
  split <;> rfl

theorem cancel_win : ActionKeepsWin cancel := fun s => by
  unfold cancel cancelFound
  split <;> simp

theorem popCompletion_win : ActionKeepsWin popCompletion := fun s => by
  unfold popCompletion
  split <;> rfl

theorem judgeVerdict_win (g : Handle) (generation : Byte) (v : VerdictCode × Byte) :
    ActionKeepsWin (judgeVerdict g generation v) := fun s => by
  unfold judgeVerdict
  split
  · rfl
  split
  · rfl
  split
  · rfl
  · exact decideEntry_win _ _ s

theorem verdict_win : ActionKeepsWin verdict := fun s => by
  unfold verdict
  split
  · rfl
  split
  · rfl
  · exact judgeVerdict_win _ _ _ s

theorem popNotice_win : ActionKeepsWin popNotice := fun s => by
  unfold popNotice
  repeat' split
  all_goals rfl

theorem detachSlot_win (i : Slot) : ActionKeepsWin (detachSlot i) := fun s => by
  unfold detachSlot
  split <;> simp

theorem releaseSlot_win (i : Slot) : ActionKeepsWin (releaseSlot i) := fun s => by
  unfold releaseSlot
  split <;> simp

theorem renegotiateSlot_win (i : Slot) : ActionKeepsWin (renegotiateSlot i) := fun s => by
  unfold renegotiateSlot
  split <;> simp

theorem actionOf_win (code : Byte) (l : Level) : ActionKeepsWin (actionOf code l) := fun s => by
  unfold actionOf
  split
  · exact enableLink_win l s
  · exact disableLink_win s
  · exact restartLink_win s
  · exact submit_win s
  · exact cancel_win s
  · exact popCompletion_win s
  · exact verdict_win s
  · exact popNotice_win s
  · exact onSlot_win detachSlot_win s
  · exact onSlot_win releaseSlot_win s
  · exact onSlot_win renegotiateSlot_win s
  · rfl

/-- An action run from a state with the same window leaves it but for ACT and ARES. -/
theorem next_runAction_win {f : State → State × ActionResult} {g : State → State} {code : Byte} {s s₀ : State}
    (hf : ActionKeepsWin f) (h : s.Running) (hg : g s = runAction code f s₀) (h₀ : s₀.win = s.win) :
    ∃ t, (.next (whileRunning g s) : Host.Outcome State Fault Refusal) = .next t ∧
      t.win = { s.win with act := code, ares := t.win.ares } := by
  refine ⟨_, congrArg Host.Outcome.next ((whileRunning_running h).trans hg), ?_⟩
  rw [runAction_win hf, h₀]

theorem exec_act_win {i : Instr} {code : Byte} {s : State} (hc : actCode i = some code) (h : s.Running) :
    ∃ t, exec i s = .next t ∧ t.win = { s.win with act := code, ares := t.win.ares } := by
  cases i <;> cases hc
  case enableLink l => exact next_runAction_win (s₀ := recordLfltn l s) (enableLink_win l) h rfl rfl
  case disableLink => exact next_runAction_win disableLink_win h rfl rfl
  case restartLink => exact next_runAction_win restartLink_win h rfl rfl
  case submit => exact next_runAction_win submit_win h rfl rfl
  case cancel => exact next_runAction_win cancel_win h rfl rfl
  case popCompletion => exact next_runAction_win popCompletion_win h rfl rfl
  case verdict => exact next_runAction_win verdict_win h rfl rfl
  case popNotice => exact next_runAction_win popNotice_win h rfl rfl
  case detach => exact next_runAction_win (onSlot_win detachSlot_win) h rfl rfl
  case release => exact next_runAction_win (onSlot_win releaseSlot_win) h rfl rfl
  case renegotiate => exact next_runAction_win (onSlot_win renegotiateSlot_win) h rfl rfl
  case unknownAction => exact next_runAction_win (actionOf_win code s.pins.lfltn) h rfl rfl

/-! ### The events on the line and in time -/

theorem faultPins_win (c : FaultCause) : WinKept (faultPins c) := fun s => by
  cases c <;> rfl

theorem lineFault_win (c : FaultCause) : WinKept (lineFault c) := fun s => by
  unfold lineFault
  repeat' split
  all_goals simp

theorem leaveFault_win : WinKept leaveFault := fun s => by
  unfold leaveFault
  repeat' split
  all_goals simp

theorem lineRestored_win : WinKept lineRestored := fun s => by
  unfold lineRestored
  repeat' split
  case h_1.isTrue => exact (leaveFault_win _).trans (post_win _ _ _ s)
  all_goals rfl

theorem quietTimeRestart_win (c : QuietBreak) : WinKept (quietTimeRestart c) := fun s => by
  unfold quietTimeRestart
  split
  · cases c <;> rfl
  all_goals rfl

theorem callSent_win : WinKept callSent := fun s => by
  unfold callSent
  repeat' split
  all_goals rfl

theorem replyStartBit_win : WinKept replyStartBit := fun s => by
  unfold replyStartBit
  split <;> rfl

theorem retryGapEnd_win : WinKept retryGapEnd := fun s => by
  unfold retryGapEnd
  split <;> rfl

theorem replyWindowExpiry_win : WinKept replyWindowExpiry := fun s => by
  unfold replyWindowExpiry
  split
  · exact endAttempt_win _ s
  · rfl

theorem replyFrameEnd_win (first : Samples) (rest : List Samples) : WinKept (replyFrameEnd first rest) := fun s => by
  unfold replyFrameEnd
  split
  · exact endAttempt_win _ s
  · rfl

theorem receptionLimit_win : WinKept receptionLimit := fun s => by
  unfold receptionLimit
  split
  · exact endAttempt_win _ s
  · rfl

theorem broadcastEnd_win : WinKept broadcastEnd := fun s => by
  unfold broadcastEnd
  split
  · exact afterWork_win s
  all_goals rfl

/-- A command that acts only while RESETN is high, and then leaves the window alone. -/
theorem next_whileRunning_win {f : State → State} (hf : WinKept f) (s : State) :
    ∃ t, (.next (whileRunning f s) : Host.Outcome State Fault Refusal) = .next t ∧ t.win = s.win :=
  ⟨_, rfl, whileRunning_win hf s⟩

theorem exec_event_win {i : Instr} (hi : isEvent i = true) (s : State) : ∃ t, exec i s = .next t ∧ t.win = s.win := by
  cases i <;> cases hi
  case lineFault c => exact next_whileRunning_win (fun s => (lineFault_win c _).trans (faultPins_win c s)) s
  case lineRestored => exact next_whileRunning_win lineRestored_win s
  case msTick l r => exact next_whileRunning_win (msTick_win l r) s
  case pollDue i => exact next_whileRunning_win (updEntry_win i _) s
  case pollOverdue i => exact next_whileRunning_win (updEntry_win i _) s
  case censusIntervalElapsed => exact ⟨_, rfl, rfl⟩
  case holdEnd => exact ⟨_, rfl, rfl⟩
  case commandExpiry => exact next_whileRunning_win expireCommands_win s
  case verdictTimeout => exact next_whileRunning_win timeOutAll_win s
  case callChoice => exact next_whileRunning_win chooseCall_win s
  case callSent => exact next_whileRunning_win callSent_win s
  case replyWindowExpiry => exact next_whileRunning_win replyWindowExpiry_win s
  case retryGapEnd => exact next_whileRunning_win retryGapEnd_win s
  case replyFrameEnd first rest => exact next_whileRunning_win (replyFrameEnd_win first rest) s
  case receptionLimit => exact next_whileRunning_win receptionLimit_win s
  case broadcastEnd => exact next_whileRunning_win broadcastEnd_win s
  case replyStartBit => exact next_whileRunning_win replyStartBit_win s
  case quietTimeRestart c => exact next_whileRunning_win (quietTimeRestart_win c) s

/-- Settles O5: the window through the events, and through the actions. -/
theorem windowKept : Obligations.WindowKept :=
  ⟨fun _ s hi => exec_event_win hi s, fun _ _ _ hc h => exec_act_win hc h⟩

/-! ### A code outside Table 8-6 (R184) -/

theorem actionOf_unknown {code : Byte} (h : code ∉ actionCodes) (l : Level) (s : State) :
    actionOf code l s = (s, .unknownAction) := by
  have hne : ∀ c ∈ actionCodes, code.toNat ≠ c.toNat := fun c hc he => h (BitVec.eq_of_toNat_eq he ▸ hc)
  simp only [actionCodes, List.forall_mem_cons, List.not_mem_nil, false_implies, implies_true, and_true] at hne
  unfold actionOf
  split
  case h_12 => rfl
  all_goals
    rename_i hc
    simp [hc] at hne

/-- Settles O6: the code starts no action, and ACT and ARES are all that is written. -/
theorem unknownActionResult : Obligations.UnknownActionResult := by
  intro code s h hc
  refine ⟨congrArg Host.Outcome.next ((whileRunning_running h).trans ?_), rfl⟩
  rw [writeAct, runAction_eq, actionOf_unknown hc]
  rfl

/-! ### IEN and ISRC (R176) -/

theorem exec_ienWrite {s : State} (h : s.Running) (value : Byte) :
    exec (.ienWrite value) s = .next (writeIen value s) :=
  congrArg Host.Outcome.next (whileRunning_running h)

/-- The four sources as one test each. -/
theorem sources_eq (s : State) :
    s.sources =
      BitVec.ofBool (decide (s.link.state = .fault)) ++ BitVec.ofBool (s.mu.queue.any fun d => d.decision.isNone) ++
        BitVec.ofBool (decide (s.ce.completions ≠ [])) ++ BitVec.ofBool (decide (s.nq.notices ≠ [])) := by
  have hl : s.lineSource = decide (s.link.state = .fault) := by
    rw [Bool.eq_iff_iff, lineSource_iff, decide_eq_true_iff]
  have hc : s.completionSource = decide (s.ce.completions ≠ []) := by
    rw [Bool.eq_iff_iff, completionSource_iff, decide_eq_true_iff]
  have hn : s.noticeSource = decide (s.nq.notices ≠ []) := by
    rw [Bool.eq_iff_iff, noticeSource_iff, decide_eq_true_iff]
  rw [State.sources, hl, hc, hn, State.decisionSource]

/-- Four flags below a zero nibble, in whichever order they are joined. -/
theorem nibble_append_fourFlags (f3 f2 f1 f0 : Bool) :
    0#4 ++ (BitVec.ofBool f3 ++ BitVec.ofBool f2 ++ BitVec.ofBool f1 ++ BitVec.ofBool f0) =
      0#4 ++ BitVec.ofBool f3 ++ BitVec.ofBool f2 ++ BitVec.ofBool f1 ++ BitVec.ofBool f0 := by
  revert f3 f2 f1 f0
  decide

theorem readRegister_ien {s : State} (h : s.Running) : s.readRegister 0x02 = 0#4 ++ s.win.ien :=
  (readRegister_running h rfl).trans (setWidth_nibble s.win.ien)

theorem readRegister_isrc {s : State} (h : s.Running) : s.readRegister 0x03 = 0#4 ++ s.sources :=
  (readRegister_running h rfl).trans (setWidth_nibble s.sources)

/-- A soft reset keeps IEN (Table 8-8), and so it stays while RESETN is low. -/
theorem exec_softReset_ien (low : BitVec 7) (s : State) :
    ∃ t, exec (.softReset low) s = .next t ∧ t.win.ien = s.win.ien := by
  cases h : s.pins.resetn with
  | low => exact ⟨s, exec_low h (by simp) (by simp) (by simp), rfl⟩
  | high => exact ⟨softReset s, congrArg Host.Outcome.next (whileRunning_running h), rfl⟩

/-- RESTART_LINK is a write to ACT, which keeps IEN with the rest of the window. -/
theorem exec_restartLink_ien (s : State) : ∃ t, exec .restartLink s = .next t ∧ t.win.ien = s.win.ien := by
  cases h : s.pins.resetn with
  | low => exact ⟨s, exec_low h (by simp) (by simp) (by simp), rfl⟩
  | high =>
    obtain ⟨t, ht, hw⟩ := exec_act_win (i := .restartLink) rfl h
    exact ⟨t, ht, by rw [hw]⟩

/-- Settles O7: the write and the reads bit by bit, then IEN through the resets and through the window's frame. -/
theorem ienAndIsrc : Obligations.IenAndIsrc := by
  refine ⟨fun value s h => exec_ienWrite h value, fun s h => ⟨readRegister_ien h, ?_⟩, fun s => ⟨_, rfl, rfl⟩,
    exec_softReset_ien, exec_restartLink_ien, fun i s hi => ?_⟩
  · rw [readRegister_isrc h, sources_eq, nibble_append_fourFlags]
  · obtain ⟨t, ht, hw⟩ := exec_event_win hi s
    exact ⟨t, ht, congrArg Window.ien hw⟩

/-! ### A step -/

theorem step_of_pending {s : State} {c : Instr} {rest : List Instr} (h : s.pending = c :: rest) :
    step s = exec c { s with pending := rest } := by
  rw [step, h]

theorem step_of_idle {s : State} (h : s.pending = []) : step s = .next s := by
  rw [step, h]

/-- Settles O1: the queue with a command at its front, and the empty queue. -/
theorem stepTakesFrontCommand : Obligations.StepTakesFrontCommand :=
  ⟨fun c s => step_of_pending (s := { s with pending := c :: s.pending }) rfl, fun _ h => step_of_idle h⟩

end Sys2Proof.Machine
end

section
/-! ## The writes of WDAT that are refused (O12), and those of PARAMS and MODULE that are taken (O13)

A refusal leaves all but the flag and the offset: each area's own write answers none for what Table 8-4 shuts out. -/

namespace Sys2Proof.Machine

/-- A write of WDAT that its area does not take (R181). -/
theorem exec_wdatWrite_refused {value : Byte} {s : State} (h : s.Running) (hn : writeArea value s = none) :
    exec (.wdatWrite value) s = .next (stepOffset (refuseAccess s)) := by
  refine congrArg Host.Outcome.next ((whileRunning_running h).trans ?_)
  rw [writeWdat, hn]
  rfl

/-! ### Each area's refusals (Table 8-4) -/

section
variable {value : Byte} {s : State}

theorem writeArea_readOnly
    (ha : s.win.area = .pages ∨ s.win.area = .completion ∨ s.win.area = .notice ∨ s.win.area = .deferred) :
    writeArea value s = none := by
  rcases ha with ha | ha | ha | ha <;> rw [writeArea, ha]

theorem writeModule_badSlot (h : s.win.widx = 0 ∨ 30 < s.win.widx.toNat) : writeModule value s = none := by
  rw [writeModule, slotOfByte_eq_none h]

/-- Of a MODULE record only the census enable and the poll period are written (R182). -/
theorem writeModule_badOffset (h : s.win.offset ≠ 3 ∧ s.win.offset ≠ 4) : writeModule value s = none := by
  unfold writeModule
  split
  · rfl
  · dsimp only
    split
    next ho => exact absurd ho h.1
    next ho => exact absurd ho h.2
    next => rfl

theorem writeModule_badCensusEnable (ho : s.win.offset = 3) (hv : 1 < value.toNat) : writeModule value s = none := by
  unfold writeModule
  split
  · rfl
  · rw [ho]
    exact if_neg (by omega)

theorem writeModule_badPollPeriod (ho : s.win.offset = 4) (hv : value = 0) : writeModule value s = none := by
  unfold writeModule
  split
  · rfl
  · rw [ho]
    exact if_pos hv

/-- A record of LOCALPAGE takes no value past its end, no fifth page kind and no third value of a flag (Table 10-5). -/
theorem LocalPage.setByte_eq_none {p : LocalPage} {offset : Nat}
    (h : 6 ≤ offset ∨ (offset = 0 ∧ 3 < value.toNat) ∨ (offset = 5 ∧ 1 < value.toNat)) :
    p.setByte offset value = none := by
  rcases h with h | ⟨rfl, hv⟩ | ⟨rfl, hv⟩
  · unfold LocalPage.setByte
    split
    · omega
    · omega
    · exact if_neg (by omega)
  · have hk : pageKindOfByte value = none := if_neg (by omega)
    rw [LocalPage.setByte, hk]
    rfl
  · exact if_neg (by omega)

theorem writeLocalPage_refused
    (h : s.link.state ≠ .off ∨ 8 ≤ s.win.widx.toNat ∨ 6 ≤ s.win.offset ∨ (s.win.offset = 0 ∧ 3 < value.toNat) ∨
      (s.win.offset = 5 ∧ 1 < value.toNat)) : writeLocalPage value s = none := by
  unfold writeLocalPage
  split
  next hs =>
    have hb := (h.resolve_left (not_not.2 hs.1)).resolve_left (by omega)
    rw [LocalPage.setByte_eq_none hb]
    rfl
  next => rfl

theorem writeAccept_refused (h : 256 ≤ s.win.offset ∨ 1 < value.toNat) : writeAccept value s = none :=
  if_neg (by omega)

theorem writeFilter_refused (h : 16 ≤ s.win.offset) : writeFilter value s = none :=
  dif_neg (by omega)

theorem Staging.setByte_eq_none {g : Staging} {offset : Nat} (h : 30 ≤ offset) : g.setByte offset value = none := by
  obtain ⟨k, rfl⟩ := Nat.exists_eq_add_of_le' (Nat.le_trans (by decide : 6 ≤ 30) h)
  exact dif_neg (by omega)

theorem writeStaging_refused (h : 30 ≤ s.win.offset) : writeStaging value s = none := by
  rw [writeStaging, Staging.setByte_eq_none h]
  rfl

/-- A parameter takes no value out of its range, and the page count none outside OFF (Table 8-3). -/
theorem writeParam_refused
    (h : 6 ≤ s.win.offset ∨ (s.win.offset = 0 ∧ value.toNat < 5) ∨ (s.win.offset = 1 ∧ 7 < value.toNat) ∨
      (s.win.offset = 2 ∧ (value = 0 ∨ 15 < value.toNat)) ∨ (s.win.offset = 3 ∧ value = 0) ∨
      (s.win.offset = 4 ∧ value = 0) ∨ (s.win.offset = 5 ∧ (8 < value.toNat ∨ s.link.state ≠ .off))) :
    writeParam value s = none := by
  rcases h with h | ⟨ho, hv⟩ | ⟨ho, hv⟩ | ⟨ho, hv⟩ | ⟨ho, rfl⟩ | ⟨ho, rfl⟩ | ⟨ho, hv⟩
  · unfold writeParam
    split
    case h_7 => rfl
    all_goals omega
  all_goals rw [writeParam, ho]
  · exact if_neg (by omega)
  · exact if_neg (by omega)
  · rcases hv with rfl | hv
    · rfl
    · exact if_neg (by omega)
  · rfl
  · rfl
  · exact if_neg fun ⟨hoff, hle⟩ => hv.elim (by omega) (absurd hoff)

end

/-- Settles O12: the areas one by one. -/
theorem wdatWriteRefused : Obligations.WdatWriteRefused := by
  intro value s h hbad
  suffices hn : writeArea value s = none from exec_wdatWrite_refused h hn
  rcases hbad with ha | ha | ha | ha | ⟨ha, hm⟩ | ⟨ha, hp⟩ | ⟨ha, hv⟩ | ⟨ha, ho⟩ | ⟨ha, ho⟩ | ⟨ha, hp⟩
  · exact writeArea_readOnly (.inl ha)
  · exact writeArea_readOnly (.inr (.inl ha))
  · exact writeArea_readOnly (.inr (.inr (.inl ha)))
  · exact writeArea_readOnly (.inr (.inr (.inr ha)))
  all_goals rw [writeArea, ha]
  · rcases hm with hs | hs | ho | ⟨ho, hv⟩ | ⟨ho, hv⟩
    · exact writeModule_badSlot (.inl hs)
    · exact writeModule_badSlot (.inr hs)
    · exact writeModule_badOffset ho
    · exact writeModule_badCensusEnable ho hv
    · exact writeModule_badPollPeriod ho hv
  · exact writeLocalPage_refused hp
  · exact writeAccept_refused hv
  · exact writeFilter_refused ho
  · exact writeStaging_refused ho
  · exact writeParam_refused hp

/-! ### The writes taken (Table 8-3, R182) -/

section
variable {value : Byte} {s : State}

theorem exec_wdatWrite_params {t : State} (h : s.Running) (ha : s.win.area = .params)
    (ht : writeParam value s = some t) : exec (.wdatWrite value) s = .next (stepOffset t) :=
  exec_wdatWrite_taken h (by rw [writeArea, ha, ht])

theorem writeParam_replyWindow (ho : s.win.offset = 0) (hv : 5 ≤ value.toNat) :
    writeParam value s = some (s.setLink { s.link with replyWindow := value }) := by
  rw [writeParam, ho]
  exact if_pos hv

theorem writeParam_retryLimit (ho : s.win.offset = 1) (hv : value.toNat ≤ 7) :
    writeParam value s = some (s.setLink { s.link with retryLimit := value }) := by
  rw [writeParam, ho]
  exact if_pos hv

theorem writeParam_missLimit (ho : s.win.offset = 2) (hl : 1 ≤ value.toNat) (hu : value.toNat ≤ 15) :
    writeParam value s = some { s with sched := { s.sched with missLimit := value } } := by
  rw [writeParam, ho]
  exact if_pos ⟨hl, hu⟩

theorem writeParam_censusInterval (ho : s.win.offset = 3) (hv : 1 ≤ value.toNat) :
    writeParam value s = some { s with sched := { s.sched with censusInterval := value } } := by
  rw [writeParam, ho]
  exact if_pos hv

theorem writeParam_verdictTimeout (ho : s.win.offset = 4) (hv : 1 ≤ value.toNat) :
    writeParam value s = some { s with mu := { s.mu with timeout := value } } := by
  rw [writeParam, ho]
  exact if_pos hv

theorem writeParam_pageCount (ho : s.win.offset = 5) (hv : value.toNat ≤ 8) (hoff : s.link.state = .off) :
    writeParam value s = some { s with px := { s.px with count := value.toNat } } := by
  rw [writeParam, ho]
  exact if_pos ⟨hoff, hv⟩

/-- A write of MODULE that is taken leaves the byte in the copy and one field of the slot's entry (R182). -/
theorem writeModule_censusEnable {i : Slot} (hk : s.win.widx = slotByte i) (ho : s.win.offset = 3)
    (hv : value.toNat ≤ 1) :
    writeModule value s =
      some { s with
        win := { s.win with snapshot := s.win.snapshot.set 3 value }
        table := s.table.set i.val { s.entry i with censusEnable := decide (value = 1) } } := by
  rw [writeModule, hk, slotOfByte_slotByte, ho]
  exact if_pos hv

theorem writeModule_pollPeriod {i : Slot} (hk : s.win.widx = slotByte i) (ho : s.win.offset = 4) (hv : value ≠ 0) :
    writeModule value s =
      some { s with
        win := { s.win with snapshot := s.win.snapshot.set 4 value }
        table := s.table.set i.val { s.entry i with pollPeriod := value } } := by
  rw [writeModule, hk, slotOfByte_slotByte, ho]
  exact if_neg hv

theorem exec_wdatWrite_module {t : State} (h : s.Running) (ha : s.win.area = .module)
    (ht : writeModule value s = some t) : exec (.wdatWrite value) s = .next (stepOffset t) :=
  exec_wdatWrite_taken h (by rw [writeArea, ha, ht])

end

/-- Settles O13: each parameter's own write, and the two fields of an entry. -/
theorem wdatWriteParamsAndModule : Obligations.WdatWriteParamsAndModule := by
  refine ⟨fun s => rfl, fun value s h ha => ?_, fun i value s h ha hk => ⟨fun ho hv => ?_, fun ho hv => ?_⟩⟩
  · exact ⟨fun ho hv => exec_wdatWrite_params h ha (writeParam_replyWindow ho hv),
      fun ho hv => exec_wdatWrite_params h ha (writeParam_retryLimit ho hv),
      fun ho hl hu => exec_wdatWrite_params h ha (writeParam_missLimit ho hl hu),
      fun ho hv => exec_wdatWrite_params h ha (writeParam_censusInterval ho hv),
      fun ho hv => exec_wdatWrite_params h ha (writeParam_verdictTimeout ho hv),
      fun ho hv hoff => exec_wdatWrite_params h ha (writeParam_pageCount ho hv hoff)⟩
  · rw [exec_wdatWrite_module h ha (writeModule_censusEnable hk ho hv), stepOffset, ho]
    rfl
  · rw [exec_wdatWrite_module h ha (writeModule_pollPeriod hk ho hv), stepOffset, ho]
    rfl

end Sys2Proof.Machine
end
